-- ==== Sys2Proof/Config.lean ====
section
/-!
DEFINITION. The parameters of an implementation (spec/00_scope.md R7). The unit's state carries them (log 1) and no step
changes them (R32), so every statement is about every configuration. There is no free value: the spec leaves no observable
result open (spec/93_implementation_defined.md).
-/

namespace Sys2Proof

/-- The OPEN parameters of R7: `n` is `N`, the width of an integer register; `nf` is `NF`, the width of a bfloat register;
`e` is `E`, the width of its exponent field; `cbSize` is `CB_SIZE`, the capacity of the character buffer. -/
structure Config where
  n : Nat
  nf : Nat
  e : Nat
  cbSize : Nat
deriving DecidableEq, Repr

/-- `F = NF - 1 - E`, the width of the fraction field (R7). -/
def Config.fracBits (c : Config) : Nat := c.nf - 1 - c.e

/-- The ranges of R7 (D6, D20), and `N < 2^63`, which R240 and U13 let a model require. The rules of the spec are claimed
for these configurations only (U12). -/
abbrev Config.InRange (c : Config) : Prop :=
  1 ≤ c.n ∧ c.n < 2 ^ 63 ∧ 2 ≤ c.e ∧ c.e ≤ 10 ∧ 2 ≤ c.fracBits ∧ c.fracBits ≤ 52 ∧ c.n + 2 ≤ c.cbSize

/-- DESIGN CHOICE (log 2): the configuration of `State.reset`, the one that spec/95_test_vectors.md section 2.18 writes down
in full: `N = 8`, `NF = 16`, `E = 8`, `CB_SIZE = 10`. -/
def Config.standard : Config := { n := 8, nf := 16, e := 8, cbSize := 10 }

end Sys2Proof
end

