-- ==== Sys2Proof/Word.lean ====
section
/-!
DEFINITION. Word types of the unit: the command word, the native operand and result, one character cell and one digit cell
(spec/00_scope.md R11, spec/20_memory.md R50, R54).
-/

namespace Sys2Proof

/-- A command word `cw`, 32 bits (R70). -/
abbrev CmdWord := BitVec 32

/-- A native operand `din` or result `dout`, 64 bits (R7 "native port width", R54). -/
abbrev Native := BitVec 64

/-- One cell of `CB`, a character code; also one storage block of an integer register (R24, R35). -/
abbrev Byte := BitVec 8

/-- One cell of `DM`, a decimal digit (R36). -/
abbrev Digit := BitVec 4

/-- Number of an integer register, `x0` to `x7` (R22). -/
abbrev XReg := Fin 8

/-- Number of a bfloat register, `f0` to `f7` (R28). -/
abbrev FReg := Fin 8

end Sys2Proof
end

