-- ==== Sys2Proof/Machine/Bits.lean ====
section
/-!
DEFINITION. Bit-level helpers that several engines share: `msb` (spec/00_scope.md R10) and the rounding primitive
`rne_shift` (spec/44_bfloat.md R206).
-/

namespace Sys2Proof.Machine

/-- `msb(v)` of R10 on the unsigned reading: the index of the most significant set bit, `-1` when there is none. -/
def msbIndex (v : Nat) : Int := if v = 0 then -1 else (Nat.log2 v : Int)

/-- `rne_shift(m, sh)` of R206: the retained bits, and whether round-to-nearest-even rounds them up (1) or not (0). -/
def rneShift (m sh : Nat) : Nat × Nat :=
  if sh = 0 then (m, 0)
  else
    let q := m / 2 ^ sh
    let guard := m.testBit (sh - 1)
    let round := decide (2 ≤ sh) && m.testBit (sh - 2)
    let sticky := decide (3 ≤ sh) && decide (m % 2 ^ (sh - 2) ≠ 0)
    let lsb := q.testBit 0
    (q, (guard && (lsb || round || sticky)).toNat)

end Sys2Proof.Machine
end

