-- ==== Sys2Proof/Machine/Bfloat.lean ====
section
/-!
DEFINITION. The floating-point encoder and decoder (spec/44_bfloat.md R200 to R218), their constants (spec/00_scope.md R8) and
the conversion of an integer to binary64 (spec/40_integer_arith.md R108).
-/

namespace Sys2Proof.Machine

/-! ## Constants (R8) -/

/-- `BIAS = 2^(E-1) - 1`. -/
def bias (c : Config) : Nat := 2 ^ (c.e - 1) - 1

/-- `EMAX = 2^(E-1)`. -/
def emax (c : Config) : Int := 2 ^ (c.e - 1)

/-- `EMIN_NORMAL = 2 - 2^(E-1)`. -/
def eminNormal (c : Config) : Int := 2 - 2 ^ (c.e - 1)

/-- `EMIN_SUB = EMIN_NORMAL - F`. -/
def eminSub (c : Config) : Int := eminNormal c - c.fracBits

/-- `ALL = 2^(NF-1) - 1`. -/
def allOnesBody (c : Config) : Nat := 2 ^ (c.nf - 1) - 1

/-! ## Fields and classes of a pattern (R29, R200) -/

/-- `sign(p) = p[NF-1]` (R29). -/
def bfSign (c : Config) (p : Nat) : Bool := p.testBit (c.nf - 1)

/-- `body(p) = p[NF-2:0]` (R29). -/
def bfBody (c : Config) (p : Nat) : Nat := p % 2 ^ (c.nf - 1)

/-- `exp(p) = p[NF-2:F]` (R29). -/
def bfExp (c : Config) (p : Nat) : Nat := bfBody c p / 2 ^ c.fracBits

/-- `frac(p) = p[F-1:0]` (R29). -/
def bfFrac (c : Config) (p : Nat) : Nat := p % 2 ^ c.fracBits

/-- The six classes (R200). -/
inductive BfClass where
  | zero
  | subnormal
  | normal
  | infinity
  | quietNaN
  | signallingNaN
deriving DecidableEq, Repr

/-- `class(p)`, decided in the order of R200. -/
def bfClass (c : Config) (p : Nat) : BfClass :=
  if bfBody c p = 0 then .zero
  else if bfBody c p = allOnesBody c then (if bfSign c p then .signallingNaN else .quietNaN)
  else if bfBody c p = allOnesBody c - 1 then .infinity
  else if bfExp c p = 0 then .subnormal
  else .normal

/-- The class codes of R226. -/
def classCode : BfClass → Nat
  | .zero => 0
  | .subnormal => 1
  | .normal => 2
  | .infinity => 3
  | .quietNaN => 4
  | .signallingNaN => 5

/-! ## binary64 fields (R12) -/

/-- The sign, bit 63. -/
def dblSign (d : BitVec 64) : Bool := d.getLsbD 63

/-- The exponent field, bits 62:52. -/
def dblExp (d : BitVec 64) : Nat := (d.extractLsb' 52 11).toNat

/-- The fraction, bits 51:0. -/
def dblFrac (d : BitVec 64) : Nat := (d.extractLsb' 0 52).toNat

/-! ## Encoder (R207 to R213) -/

/-- `S + b`: a body with a sign (R207). -/
def signedBody (c : Config) (sign : Bool) (body : Nat) : Nat := sign.toNat * 2 ^ (c.nf - 1) + body

/-- R212 with the collision rule of R210: a source with exponent `EMIN_NORMAL <= e <= EMAX` and fraction `fs`. -/
def encodeNormal (c : Config) (e : Int) (fs : Nat) : Nat :=
  let r := rneShift fs (52 - c.fracBits)
  let b := (e + bias c).toNat * 2 ^ c.fracBits + r.1 + r.2
  if allOnesBody c - 1 ≤ b then allOnesBody c - 2 else b

/-- R213: a source with exponent `EMIN_SUB <= e < EMIN_NORMAL` and fraction `fs`. -/
def encodeSubnormal (c : Config) (e : Int) (fs : Nat) : Nat :=
  let r := rneShift (2 ^ 52 + fs) ((52 - c.fracBits) + (eminNormal c - e).toNat)
  r.1 + r.2

/-- The body of a finite non-zero binary64 with unbiased exponent `e` (R207, R210 to R213). -/
def encodeFinite (c : Config) (e : Int) (fs : Nat) : Nat :=
  if emax c < e then allOnesBody c - 2
  else if e < eminSub c then 0
  else if eminNormal c ≤ e then encodeNormal c e fs
  else encodeSubnormal c e fs

/-- The pattern that `FENC` writes for the binary64 pattern `d` (R207, R208, R209). -/
def fencPattern (c : Config) (d : BitVec 64) : Nat :=
  if dblExp d = 0x7FF ∧ dblFrac d ≠ 0 then signedBody c (!(dblFrac d).testBit 51) (allOnesBody c)
  else if dblExp d = 0x7FF then signedBody c (dblSign d) (allOnesBody c - 1)
  else if dblExp d = 0 then signedBody c (dblSign d) 0
  else signedBody c (dblSign d) (encodeFinite c ((dblExp d : Int) - 1023) (dblFrac d))

/-! ## Decoder (R215 to R218) -/

/-- The binary64 pattern with a sign, an exponent field and a fraction. -/
def dblPattern (sign : Bool) (ef fr : Nat) : BitVec 64 := BitVec.ofNat 64 (sign.toNat * 2 ^ 63 + ef * 2 ^ 52 + fr)

/-- R217: a normal pattern; the value is exact. -/
def decodeNormal (c : Config) (p : Nat) : BitVec 64 :=
  dblPattern (bfSign c p) ((bfExp c p : Int) - bias c + 1023).toNat (bfFrac c p * 2 ^ (52 - c.fracBits))

/-- R218: a subnormal pattern; the value is exact. -/
def decodeSubnormal (c : Config) (p : Nat) : BitVec 64 :=
  let k := Nat.log2 (bfFrac c p)
  dblPattern (bfSign c p) (eminNormal c - c.fracBits + k + 1023).toNat ((bfFrac c p - 2 ^ k) * 2 ^ (52 - k))

/-- The binary64 pattern that `FDEC` returns for the pattern `p` (R215, R216). -/
def fdecPattern (c : Config) (p : Nat) : BitVec 64 :=
  match bfClass c p with
  | .zero => dblPattern (bfSign c p) 0 0
  | .infinity => dblPattern (bfSign c p) 0x7FF 0
  | .quietNaN => 0x7FF8000000000000#64
  | .signallingNaN => 0x7FF4000000000000#64
  | .normal => decodeNormal c p
  | .subnormal => decodeSubnormal c p

/-! ## Integer to binary64 (R108) -/

/-- R108: a signed 64-bit integer as the nearest binary64, ties to even. -/
def intToDouble (v : Int) : BitVec 64 :=
  if v = 0 then 0#64
  else
    let mag := v.natAbs
    let k := Nat.log2 mag
    if k ≤ 52 then dblPattern (decide (v < 0)) (k + 1023) ((mag - 2 ^ k) * 2 ^ (52 - k))
    else
      let r := rneShift mag (k - 52)
      BitVec.ofNat 64 ((decide (v < 0)).toNat * 2 ^ 63 + (k + 1023) * 2 ^ 52 + (r.1 - 2 ^ 52) + r.2)

end Sys2Proof.Machine
end

