-- ==== Sys2Proof/Syntax.lean ====
section
/-!
DEFINITION. The 53 commands of spec/30_encoding.md R73, one constructor per row of spec/opcode_table.json, in the table's
order. The native operand `din` is no part of the command word (R76), so no constructor holds it.
-/

namespace Sys2Proof

/-- A command. Fields stand in the order `A`, `B`, `C` of the word (R70, R77). -/
inductive Instr where
  | ldis (a : XReg)
  | ldiu (a : XReg)
  | setraw (a : XReg)
  | mov (a b : XReg)
  | clr (a : XReg)
  | stis (a : XReg)
  | stiu (a : XReg)
  | i2d (a : XReg)
  | add (a b : XReg)
  | sub (a b : XReg)
  | mul (a b : XReg)
  | div (a b : XReg)
  | rem (a b : XReg)
  | divrem (a b c : XReg)
  | neg (a b : XReg)
  | not (a b : XReg)
  | inc (a : XReg)
  | dec (a : XReg)
  | shl (a : XReg)
  | shr (a : XReg)
  | ceq (a b : XReg)
  | cne (a b : XReg)
  | clt (a b : XReg)
  | cgt (a b : XReg)
  | cle (a b : XReg)
  | cge (a b : XReg)
  | msb (a : XReg)
  | setb (a : XReg)
  | rstb (a : XReg)
  | tstb (a : XReg)
  | blkr (a : XReg)
  | b2d (a : XReg)
  | tostr (a : XReg)
  | tobin (a : XReg)
  | parse (a : XReg)
  | cbrst
  | cbput
  | cbget
  | dmget
  | fenc (a : FReg)
  | fdec (a : FReg)
  | fsetz (a : FReg)
  | fsetinf (a : FReg)
  | fsetnan (a : FReg)
  | fclass (a : FReg)
  | fmvx (a : FReg)
  | fmxv (a : FReg)
  | fadd (a b : FReg)
  | fsub (a b : FReg)
  | fmul (a b : FReg)
  | fdiv (a b : FReg)
  | csrr
  | clrf
deriving DecidableEq, Repr

end Sys2Proof
end

