-- ==== Sys2Proof/WellFormed.lean ====
section
/-!
DEFINITION. The one check on a command that its constructor's types do not already make: `DIVREM` with `A = C` is no command
(spec/30_encoding.md R74, spec/42_division.md R163). Register numbers are in range by their type.
-/

namespace Sys2Proof

/-- Whether a command is one the unit has (R74, R79 step 4). -/
def Instr.wellFormed : Instr → Bool
  | .divrem a _ c => decide (a ≠ c)
  | _ => true

end Sys2Proof
end

