-- ==== Sys2Proof/Decode.lean ====
section
/-!
DEFINITION. Decoding and encoding of the command word (spec/30_encoding.md R70 to R75, R79) and `decodeTableWord`. Decoding is
total on every 32-bit word and rejects by name; every rejection is the one architectural fault `IllegalCommand` (R251).
-/

namespace Sys2Proof

/-- The four formats of R71. -/
inductive Format where
  | z | a | ab | abc
deriving DecidableEq, Repr

/-- Why a word is no command, in the order of R79's steps; each raises `IllegalCommand` (R251). -/
inductive DecodeError where
  /-- Step 1: `cw[31:17]` is not zero. -/
  | reservedFieldSet
  /-- Step 2: the opcode has no row in R73. -/
  | reservedOpcode
  /-- Step 3: a register field that the format does not use is not zero. -/
  | unusedFieldSet
  /-- Step 4: `DIVREM` with `A = C`. -/
  | divremSameDestination
deriving DecidableEq, Repr

/-- `op = cw[7:0]` (R70). -/
def opField (w : CmdWord) : Nat := w.toNat % 2 ^ 8

/-- `A = cw[10:8]` (R70). -/
def fieldA (w : CmdWord) : Fin 8 := Fin.ofNat 8 (w.toNat / 2 ^ 8)

/-- `B = cw[13:11]` (R70). -/
def fieldB (w : CmdWord) : Fin 8 := Fin.ofNat 8 (w.toNat / 2 ^ 11)

/-- `C = cw[16:14]` (R70). -/
def fieldC (w : CmdWord) : Fin 8 := Fin.ofNat 8 (w.toNat / 2 ^ 14)

/-- `zero = cw[31:17]` (R70). -/
def zeroField (w : CmdWord) : Nat := w.toNat / 2 ^ 17

/-- The opcode map of R73: the format and the command of an opcode, given the three register fields. -/
def lookupOp (op : Nat) (a b c : Fin 8) : Option (Format × Instr) :=
  match op with
  | 0x01 => some (.a, .ldis a)
  | 0x02 => some (.a, .ldiu a)
  | 0x03 => some (.a, .setraw a)
  | 0x04 => some (.ab, .mov a b)
  | 0x05 => some (.a, .clr a)
  | 0x06 => some (.a, .stis a)
  | 0x07 => some (.a, .stiu a)
  | 0x08 => some (.a, .i2d a)
  | 0x10 => some (.ab, .add a b)
  | 0x11 => some (.ab, .sub a b)
  | 0x12 => some (.ab, .mul a b)
  | 0x13 => some (.ab, .div a b)
  | 0x14 => some (.ab, .rem a b)
  | 0x15 => some (.abc, .divrem a b c)
  | 0x16 => some (.ab, .neg a b)
  | 0x17 => some (.ab, .not a b)
  | 0x18 => some (.a, .inc a)
  | 0x19 => some (.a, .dec a)
  | 0x20 => some (.a, .shl a)
  | 0x21 => some (.a, .shr a)
  | 0x30 => some (.ab, .ceq a b)
  | 0x31 => some (.ab, .cne a b)
  | 0x32 => some (.ab, .clt a b)
  | 0x33 => some (.ab, .cgt a b)
  | 0x34 => some (.ab, .cle a b)
  | 0x35 => some (.ab, .cge a b)
  | 0x38 => some (.a, .msb a)
  | 0x40 => some (.a, .setb a)
  | 0x41 => some (.a, .rstb a)
  | 0x42 => some (.a, .tstb a)
  | 0x43 => some (.a, .blkr a)
  | 0x50 => some (.a, .b2d a)
  | 0x51 => some (.a, .tostr a)
  | 0x52 => some (.a, .tobin a)
  | 0x53 => some (.a, .parse a)
  | 0x54 => some (.z, .cbrst)
  | 0x55 => some (.z, .cbput)
  | 0x56 => some (.z, .cbget)
  | 0x57 => some (.z, .dmget)
  | 0x60 => some (.a, .fenc a)
  | 0x61 => some (.a, .fdec a)
  | 0x62 => some (.a, .fsetz a)
  | 0x63 => some (.a, .fsetinf a)
  | 0x64 => some (.a, .fsetnan a)
  | 0x65 => some (.a, .fclass a)
  | 0x66 => some (.a, .fmvx a)
  | 0x67 => some (.a, .fmxv a)
  | 0x68 => some (.ab, .fadd a b)
  | 0x69 => some (.ab, .fsub a b)
  | 0x6A => some (.ab, .fmul a b)
  | 0x6B => some (.ab, .fdiv a b)
  | 0x70 => some (.z, .csrr)
  | 0x71 => some (.z, .clrf)
  | _ => none

/-- R71: the register fields a format does not use are zero. -/
def unusedFieldsZero (f : Format) (a b c : Fin 8) : Bool :=
  match f with
  | .z => a == 0 && b == 0 && c == 0
  | .a => b == 0 && c == 0
  | .ab => c == 0
  | .abc => true

/-- The decoding procedure of R79, steps 1 to 4. -/
def decode (w : CmdWord) : Except DecodeError Instr :=
  if zeroField w ≠ 0 then .error .reservedFieldSet
  else
    match lookupOp (opField w) (fieldA w) (fieldB w) (fieldC w) with
    | none => .error .reservedOpcode
    | some (f, i) =>
      if unusedFieldsZero f (fieldA w) (fieldB w) (fieldC w) = false then .error .unusedFieldSet
      else if i.wellFormed = false then .error .divremSameDestination
      else .ok i

/-- The word with opcode `op`, register fields `a`, `b`, `c` and a zero `zero` field (R70). -/
def wordABC (op : Nat) (a b c : Fin 8) : CmdWord :=
  BitVec.ofNat 32 (op + a.val * 2 ^ 8 + b.val * 2 ^ 11 + c.val * 2 ^ 14)

/-- The word of a format AB command (R71). -/
def wordAB (op : Nat) (a b : Fin 8) : CmdWord := wordABC op a b 0

/-- The word of a format A command (R71). -/
def wordA (op : Nat) (a : Fin 8) : CmdWord := wordABC op a 0 0

/-- The word of a format Z command (R71). -/
def wordZ (op : Nat) : CmdWord := wordABC op 0 0 0

/-- The command word of a command (R70, R71, R73). -/
def encode : Instr → CmdWord
  | .ldis a => wordA 0x01 a
  | .ldiu a => wordA 0x02 a
  | .setraw a => wordA 0x03 a
  | .mov a b => wordAB 0x04 a b
  | .clr a => wordA 0x05 a
  | .stis a => wordA 0x06 a
  | .stiu a => wordA 0x07 a
  | .i2d a => wordA 0x08 a
  | .add a b => wordAB 0x10 a b
  | .sub a b => wordAB 0x11 a b
  | .mul a b => wordAB 0x12 a b
  | .div a b => wordAB 0x13 a b
  | .rem a b => wordAB 0x14 a b
  | .divrem a b c => wordABC 0x15 a b c
  | .neg a b => wordAB 0x16 a b
  | .not a b => wordAB 0x17 a b
  | .inc a => wordA 0x18 a
  | .dec a => wordA 0x19 a
  | .shl a => wordA 0x20 a
  | .shr a => wordA 0x21 a
  | .ceq a b => wordAB 0x30 a b
  | .cne a b => wordAB 0x31 a b
  | .clt a b => wordAB 0x32 a b
  | .cgt a b => wordAB 0x33 a b
  | .cle a b => wordAB 0x34 a b
  | .cge a b => wordAB 0x35 a b
  | .msb a => wordA 0x38 a
  | .setb a => wordA 0x40 a
  | .rstb a => wordA 0x41 a
  | .tstb a => wordA 0x42 a
  | .blkr a => wordA 0x43 a
  | .b2d a => wordA 0x50 a
  | .tostr a => wordA 0x51 a
  | .tobin a => wordA 0x52 a
  | .parse a => wordA 0x53 a
  | .cbrst => wordZ 0x54
  | .cbput => wordZ 0x55
  | .cbget => wordZ 0x56
  | .dmget => wordZ 0x57
  | .fenc a => wordA 0x60 a
  | .fdec a => wordA 0x61 a
  | .fsetz a => wordA 0x62 a
  | .fsetinf a => wordA 0x63 a
  | .fsetnan a => wordA 0x64 a
  | .fclass a => wordA 0x65 a
  | .fmvx a => wordA 0x66 a
  | .fmxv a => wordA 0x67 a
  | .fadd a b => wordAB 0x68 a b
  | .fsub a b => wordAB 0x69 a b
  | .fmul a b => wordAB 0x6A a b
  | .fdiv a b => wordAB 0x6B a b
  | .csrr => wordZ 0x70
  | .clrf => wordZ 0x71

/-- One row of R73 as spec/opcode_table.json has it: mnemonic, format, `match`. -/
structure OpRow where
  mnemonic : String
  format : Format
  pattern : CmdWord
deriving DecidableEq, Repr

/-- The `mask` of a format (R71). -/
def Format.mask : Format → CmdWord
  | .z => 0xFFFFFFFF#32
  | .a => 0xFFFFF8FF#32
  | .ab => 0xFFFFC0FF#32
  | .abc => 0xFFFE00FF#32

/-- R71: "A word `cw` selects the command of a row of R73 exactly when `cw & mask = match`". -/
def OpRow.selects (r : OpRow) (w : CmdWord) : Bool := (w &&& r.format.mask) == r.pattern

/-- The rows of R73 (spec/opcode_table.json). -/
def opTable : List OpRow :=
  [
⟨"LDIS", .a, 0x01⟩,
  ⟨"LDIU", .a, 0x02⟩,
  ⟨"SETRAW", .a, 0x03⟩,
  ⟨"MOV", .ab, 0x04⟩,
  ⟨"CLR", .a, 0x05⟩,
  ⟨"STIS", .a, 0x06⟩,
  ⟨"STIU", .a, 0x07⟩,
  ⟨"I2D", .a, 0x08⟩,
  ⟨"ADD", .ab, 0x10⟩,
  ⟨"SUB", .ab, 0x11⟩,
  ⟨"MUL", .ab, 0x12⟩,
  ⟨"DIV", .ab, 0x13⟩,
  ⟨"REM", .ab, 0x14⟩,
  ⟨"DIVREM", .abc, 0x15⟩] ++
  [
  ⟨"NEG", .ab, 0x16⟩,
  ⟨"NOT", .ab, 0x17⟩,
  ⟨"INC", .a, 0x18⟩,
  ⟨"DEC", .a, 0x19⟩,
  ⟨"SHL", .a, 0x20⟩,
  ⟨"SHR", .a, 0x21⟩,
  ⟨"CEQ", .ab, 0x30⟩,
  ⟨"CNE", .ab, 0x31⟩,
  ⟨"CLT", .ab, 0x32⟩,
  ⟨"CGT", .ab, 0x33⟩,
  ⟨"CLE", .ab, 0x34⟩,
  ⟨"CGE", .ab, 0x35⟩,
  ⟨"MSB", .a, 0x38⟩,
  ⟨"SETB", .a, 0x40⟩] ++
  [
  ⟨"RSTB", .a, 0x41⟩,
  ⟨"TSTB", .a, 0x42⟩,
  ⟨"BLKR", .a, 0x43⟩,
  ⟨"B2D", .a, 0x50⟩,
  ⟨"TOSTR", .a, 0x51⟩,
  ⟨"TOBIN", .a, 0x52⟩,
  ⟨"PARSE", .a, 0x53⟩,
  ⟨"CBRST", .z, 0x54⟩,
  ⟨"CBPUT", .z, 0x55⟩,
  ⟨"CBGET", .z, 0x56⟩,
  ⟨"DMGET", .z, 0x57⟩,
  ⟨"FENC", .a, 0x60⟩,
  ⟨"FDEC", .a, 0x61⟩,
  ⟨"FSETZ", .a, 0x62⟩] ++
  [
  ⟨"FSETINF", .a, 0x63⟩,
  ⟨"FSETNAN", .a, 0x64⟩,
  ⟨"FCLASS", .a, 0x65⟩,
  ⟨"FMVX", .a, 0x66⟩,
  ⟨"FMXV", .a, 0x67⟩,
  ⟨"FADD", .ab, 0x68⟩,
  ⟨"FSUB", .ab, 0x69⟩,
  ⟨"FMUL", .ab, 0x6A⟩,
  ⟨"FDIV", .ab, 0x6B⟩,
  ⟨"CSRR", .z, 0x70⟩,
  ⟨"CLRF", .z, 0x71⟩]

/-- The command read from an instruction whose bits are `w`, as spec/opcode_table.json numbers them: the command word is bits
31:0 (the operand `din`, bits 95:32 where `nbits` reaches that far, takes no part in decoding, R79). -/
def decodeTableWord (nbits w : Nat) : Option Instr :=
  match decode (BitVec.ofNat 32 (w % 2 ^ nbits)) with
  | .ok i => some i
  | .error _ => none

end Sys2Proof
end

