-- ==== Sys2Proof/Machine/State.lean ====
section
/-!
DEFINITION. The state of the unit (spec/10_state.md R21), plain data; the reasons a step can stop; the state after reset (R40,
spec/70_reset_and_hazards.md R280).
-/

namespace Sys2Proof.Machine

/-- Why the machine stops with a fault. NOT the five faults of the unit (R250), which are next states (`FaultCause`,
`State.raise`): these two are raised by the memory operations of `Machine/Ops.lean` alone, on an access to an address outside
its space (R50), which only a state that no run reaches can make (log 9). Safe: the machine stops where the spec says
nothing. -/
inductive Fault where
  /-- An access to a cell of `CB` at `CB_SIZE` or above. Raised by `execCbput`, `execCbget`, `execTostr`, `execTobin`,
  `execParse` in an ill-formed state only. Safe. -/
  | noSuchCharCell
  /-- An access to a cell of `DM` at `N` or above. Raised by `execB2d`, `execTostr`, `execDmget` in an ill-formed state
  only. Safe. -/
  | noSuchDigitCell
deriving DecidableEq, Repr

/-- Why the machine refuses to step. -/
inductive Refusal where
  /-- An instruction with no meaning yet, by its mnemonic. No arm of `exec` raises it. Safe. -/
  | notModelled (mnemonic : String)
  /-- The configuration is outside the ranges of R7: "the rules are not claimed to hold there", treatment `refuse` (U12, U13;
  log 3). Raised by `step` alone. Safe. -/
  | configurationOutOfRange
deriving DecidableEq, Repr

/-- The five synchronous faults of the unit (R250). A command that raises one takes a next state (R256). -/
inductive FaultCause where
  | illegalCommand
  | divideByZero
  | indexOutOfBounds
  | unsupported
  | bufferOverflow
deriving DecidableEq, Repr

/-- A command: the pair `(cw, din)` (R11). -/
structure Command where
  cw : CmdWord
  din : Native
deriving DecidableEq, Repr

/-- A response: the pair `(fault, dout)` (R11); fault code 0 means no fault. -/
structure Response where
  fault : BitVec 4
  dout : Native
deriving DecidableEq, Repr

/-- What a host may do (R285): present a command, or assert reset between commands (R280). -/
inductive HostMove where
  | present (c : Command)
  | reset
deriving DecidableEq, Repr

/-- Sparse cells by address, each `w` bits wide. Canonical form: addresses strictly rising and no entry equal to
`unlistedCell` (`Memory.wf`). `Memory 8` is a list of `Host.Cell`. -/
abbrev Memory (w : Nat) := List (Nat × BitVec w)

/-- DESIGN CHOICE (log 8): what a cell that no entry lists reads as. Cells the spec leaves unspecified are unobservable
(R35, R36, U2). -/
def unlistedCell (w : Nat) : BitVec w := 0#w

/-- The canonical form of a memory. -/
def Memory.wf {w : Nat} : Memory w → Bool
  | [] => true
  | [(_, v)] => v != unlistedCell w
  | (a, v) :: (b, u) :: m => v != unlistedCell w && decide (a < b) && Memory.wf ((b, u) :: m)

/-- Every listed address is below `bound`. -/
def Memory.below {w : Nat} (bound : Nat) (m : Memory w) : Bool := m.all fun cell => decide (cell.1 < bound)

/-- The whole state of the unit (R21), its configuration (R7, log 1) and its ports (R11). A register is held as its unsigned
bit pattern (R9); `State.xreg` and `State.freg` read it at the width the configuration gives (log 10). -/
structure State where
  /-- `N`, `NF`, `E`, `CB_SIZE` (R7); no step changes it (R32). -/
  cfg : Config
  /-- `x0` to `x7`, `N`-bit patterns (R22). -/
  x : Vector Nat 8
  /-- `f0` to `f7`, `NF`-bit patterns (R28). -/
  f : Vector Nat 8
  /-- `CB`, the character buffer (R35). -/
  cb : List Host.Cell
  /-- `csr.CLEN` (R31). -/
  clen : Nat
  /-- `DM`, the digit memory (R36). -/
  dm : List (Nat × BitVec 4)
  /-- `csr.DLEN` (R31). -/
  dlen : Nat
  /-- `csr.DSIGN` (R31). -/
  dsign : Bool
  /-- `csr.FSR` (R33). -/
  fsr : BitVec 64
  /-- MODEL's own: the host's coming moves, oldest first (R285, log 4). -/
  pending : List HostMove
  /-- MODEL's own: `cmd_din` of the command in progress (R11, log 6). -/
  din : BitVec 64
  /-- MODEL's own: the latest response, if any since reset (R11, log 7). -/
  rsp : Option Response
deriving DecidableEq, Repr

/-- The reset state of a configuration (R40, R280). -/
def State.resetWith (c : Config) : State where
  cfg := c
  x := Vector.replicate 8 0
  f := Vector.replicate 8 0
  cb := []
  clen := 0
  dm := []
  dlen := 1
  dsign := false
  fsr := 0#64
  pending := []
  din := 0#64
  rsp := none

/-- The machine right after reset, in the configuration of log 2. -/
def State.reset : State := State.resetWith Config.standard

end Sys2Proof.Machine
end

