-- ==== Sys2Proof/Machine/Flags.lean ====
section
/-!
DEFINITION. The unit has no condition codes (spec/10_state.md R30): no command computes a flag. Its only sticky status is
`csr.FSR` (R33), whose fields are read and written here.
-/

namespace Sys2Proof.Machine

/-- `FSR.fcode`, bits 3:0 (R33). -/
def fcode (fsr : BitVec 64) : BitVec 4 := fsr.extractLsb' 0 4

/-- `FSR.pf`, bit 8 (R33). -/
def pf (fsr : BitVec 64) : Bool := fsr.getLsbD 8

/-- `FSR` with bits 3:0 set to `c`, every other bit kept. -/
def withFcode (fsr : BitVec 64) (c : BitVec 4) : BitVec 64 := (fsr &&& ~~~0xF#64) ||| c.setWidth 64

/-- `FSR` with the sticky bit `pf` set, every other bit kept (R187). -/
def withPf (fsr : BitVec 64) : BitVec 64 := fsr ||| 0x100#64

/-- "code of the first fault raised since reset or the last `CLRF`" (R33, R256): written only when `fcode = 0`. -/
def recordFirst (fsr : BitVec 64) (c : BitVec 4) : BitVec 64 := if fcode fsr = 0#4 then withFcode fsr c else fsr

/-- The bits of `FSR` that R33 reserves (7:4 and 63:9) all read 0. -/
def reservedFsrZero (fsr : BitVec 64) : Bool := (fsr &&& ~~~0x10F#64) == 0#64

end Sys2Proof.Machine
end

