-- ==== Sys2Proof/Machine/Ops.lean ====
section
/-!
DEFINITION. The named operations over the state: registers, cells of `CB` and `DM`, the response of a command, a fault and the
clearing of its record, and the host's moves.
-/

namespace Sys2Proof.Machine

/-- What a meaning answers. -/
abbrev Result := Host.Outcome State Fault Refusal

/-! ## Registers (R10, R22, R28) -/

/-- The stored pattern of `x[r]`. -/
def State.xpat (s : State) (r : XReg) : Nat := s.x[r.val]

/-- `x[r]`, read as an `N`-bit pattern (R10, R23). -/
def State.xreg (s : State) (r : XReg) : BitVec s.cfg.n := BitVec.ofNat s.cfg.n (s.xpat r)

/-- `x[r] <- v` (R10). The stored pattern is below `2^N`, which is the masking invariant of R25. -/
def State.setX (s : State) (r : XReg) (v : BitVec s.cfg.n) : State := { s with x := s.x.set r.val v.toNat }

/-- The stored pattern of `f[r]`. -/
def State.fpat (s : State) (r : FReg) : Nat := s.f[r.val]

/-- `f[r]`, read as an `NF`-bit pattern (R10, R28). -/
def State.freg (s : State) (r : FReg) : BitVec s.cfg.nf := BitVec.ofNat s.cfg.nf (s.fpat r)

/-- `f[r] <- v` (R10). -/
def State.setF (s : State) (r : FReg) (v : BitVec s.cfg.nf) : State := { s with f := s.f.set r.val v.toNat }

/-! ## Cells (R50, R56) -/

/-- The cell at an address. -/
def memRead {w : Nat} : Memory w → Nat → BitVec w
  | [], _ => unlistedCell w
  | (b, u) :: m, a => if a = b then u else memRead m a

/-- The memory with one cell written, in canonical form again. -/
def memWrite {w : Nat} : Memory w → Nat → BitVec w → Memory w
  | [], a, v => if v = unlistedCell w then [] else [(a, v)]
  | (b, u) :: m, a, v =>
    if a < b then (if v = unlistedCell w then (b, u) :: m else (a, v) :: (b, u) :: m)
    else if a = b then (if v = unlistedCell w then m else (a, v) :: m)
    else (b, u) :: memWrite m a v

/-- The memory with `vs` written to consecutive cells from address `a`. -/
def memWriteList {w : Nat} (m : Memory w) (a : Nat) : List (BitVec w) → Memory w
  | [] => m
  | v :: vs => memWriteList (memWrite m a v) (a + 1) vs

/-- The `k` cells from address `a`. -/
def memReadList {w : Nat} (m : Memory w) (a : Nat) : Nat → List (BitVec w)
  | 0 => []
  | k + 1 => memRead m a :: memReadList m (a + 1) k

/-- `MemRead(CB, i, 1)`; none where `CB` has no such address (R50). -/
def State.charAt (s : State) (i : Nat) : Option Byte := if i < s.cfg.cbSize then some (memRead s.cb i) else none

/-- `MemRead(DM, k, 1)`; none where `DM` has no such address (R50). -/
def State.digitAt (s : State) (k : Nat) : Option Digit := if k < s.cfg.n then some (memRead s.dm k) else none

/-- `CB[0 .. CLEN-1]`, the text (R35, R181); none where it reaches outside `CB`. -/
def State.text (s : State) : Option (List Byte) :=
  if s.clen ≤ s.cfg.cbSize then some (memReadList s.cb 0 s.clen) else none

/-- Writes a whole text from address 0 and sets `CLEN` (R35, R177, R178); none where it does not fit `CB`. -/
def State.storeText (s : State) (t : List Byte) : Option State :=
  if t.length ≤ s.cfg.cbSize then some { s with cb := memWriteList s.cb 0 t, clen := t.length } else none

/-- `CB[CLEN] <- c`, then `CLEN <- CLEN + 1` (R191); none where `CB` has no such address. -/
def State.appendChar (s : State) (c : Byte) : Option State :=
  if s.clen < s.cfg.cbSize then some { s with cb := memWrite s.cb s.clen c, clen := s.clen + 1 } else none

/-- Writes a whole Decimal, least significant digit at address 0, and sets `DLEN` and `DSIGN` (R176); none where it does not
fit `DM`. -/
def State.storeDigits (s : State) (sign : Bool) (ds : List Digit) : Option State :=
  if ds.length ≤ s.cfg.n then
    some { s with dm := memWriteList s.dm 0 ds, dlen := ds.length, dsign := sign }
  else none

/-- `csr.CLEN <- 0`; the cells keep what they held (R190). -/
def State.emptyText (s : State) : State := { s with clen := 0 }

/-- Goes on with the value of a cell operation, or stops with `r` where the address does not exist (log 9). -/
def orStop {α : Type} (o : Option α) (r : Fault) (k : α → Result) : Result :=
  match o with
  | some v => k v
  | none => .fault r

/-! ## Responses and faults (R11, R250, R256) -/

/-- The command completed: response `(0, dout)` (R11, R76). -/
def State.complete (s : State) (dout : Native) : State := { s with rsp := some { fault := 0#4, dout := dout } }

/-- The fault codes of R250. -/
def FaultCause.code : FaultCause → BitVec 4
  | .illegalCommand => 1#4
  | .divideByZero => 2#4
  | .indexOutOfBounds => 3#4
  | .unsupported => 4#4
  | .bufferOverflow => 5#4

/-- TAKING A FAULT, the unit's one exception entry (R256): the first code sticks in `FSR.fcode`, the response is
`(code, 0)`, and nothing else changes. Control goes nowhere: there is no pc, vector, mode or mask. -/
def State.raise (s : State) (c : FaultCause) : State :=
  { s with fsr := recordFirst s.fsr c.code, rsp := some { fault := c.code, dout := 0#64 } }

/-- There is no return from a fault, "because nothing is entered" (R260); `CLRF` re-arms the record:
`FSR <- 0` (R241). -/
def State.clearFaults (s : State) : State := { s with fsr := 0#64 }

/-- The diagnostic of a parse failure: `FSR.pf <- 1` (R187). -/
def State.setPf (s : State) : State := { s with fsr := withPf s.fsr }

/-! ## The host's moves (R280, R283, R285; log 4) -/

/-- The host's next move is taken off the list and its operand stands on the port `cmd_din`. -/
def State.accept (s : State) (rest : List HostMove) (din : Native) : State := { s with pending := rest, din := din }

/-- Reset: every piece of state takes its reset value; the parameters are untouched (R280); the moves still to come stay. -/
def State.assertReset (s : State) (rest : List HostMove) : State :=
  { State.resetWith s.cfg with pending := rest }

/-- A word that decodes to no command raises `IllegalCommand`, whichever step of R79 rejects it (R251). -/
def illegalWord (_ : DecodeError) (s : State) : Result := .next (s.raise .illegalCommand)

/-- Nothing is presented: the unit waits for the next command and nothing changes (R27, R284; log 5). -/
def idle (s : State) : Result := .next s

/-- An out-of-range configuration has no step (U12, U13; log 3). -/
def refuseConfiguration : Result := .refused .configurationOutOfRange

end Sys2Proof.Machine
end

