-- ==== Sys2Proof/Machine/Operands.lean ====
section
/-!
DEFINITION. Every form in which a command reads its native operand `din` (spec/30_encoding.md R76), and the widening and
narrowing between `N`-bit and 64-bit values (spec/00_scope.md R10). Register operands are `State.xreg` and `State.freg`.
-/

namespace Sys2Proof.Machine

/-- `sdin = signed(din)` (R10). -/
def State.sdin (s : State) : Int := s.din.toInt

/-- `udin = unsigned(din)` (R10). -/
def State.udin (s : State) : Nat := s.din.toNat

/-- `din[0]`, the sign of `FSETINF`, the kind of `FSETNAN`. -/
def State.dinBit0 (s : State) : Bool := s.din.getLsbD 0

/-- `din[7:0]`, the character of `CBPUT`. -/
def State.dinChar (s : State) : Byte := s.din.extractLsb' 0 8

/-- `din[NF-1:0]`, the raw pattern of `FMVX`. -/
def State.dinPattern (s : State) : BitVec s.cfg.nf := s.din.setWidth s.cfg.nf

/-- A native signed integer as an `n`-bit pattern: `sext_N` for `N >= 64`, `trunc_N` below (R101). -/
def fromSigned (n : Nat) (v : Native) : BitVec n := if 64 ≤ n then v.signExtend n else v.setWidth n

/-- A native unsigned integer as an `n`-bit pattern: `zext_N` for `N >= 64`, `trunc_N` below (R102, R103). -/
def fromUnsigned (n : Nat) (v : Native) : BitVec n := v.setWidth n

/-- An `n`-bit pattern as a native signed integer: `trunc_64` for `N >= 64`, `sext_64` below (R106). -/
def toSigned {n : Nat} (v : BitVec n) : Native := if 64 ≤ n then v.setWidth 64 else v.signExtend 64

/-- An `n`-bit pattern as a native unsigned integer: `trunc_64` for `N >= 64`, `zext_64` below (R107). -/
def toUnsigned {n : Nat} (v : BitVec n) : Native := v.setWidth 64

/-- A truth value on `dout`: 1 or 0 (R76). -/
def truth (b : Bool) : Native := if b then 1#64 else 0#64

end Sys2Proof.Machine
end

