-- ==== Sys2Proof/Machine/BfloatCommands.lean ====
section
/-!
DEFINITION. Meanings of the commands of spec/44_bfloat.md.
-/

namespace Sys2Proof.Machine

/-- A pattern as the content of a bfloat register. -/
def State.asBfloat (s : State) (p : Nat) : BitVec s.cfg.nf := BitVec.ofNat s.cfg.nf p

/-- `FENC fA, #d` (R207). -/
def execFenc (a : FReg) (s : State) : Result :=
  .next ((s.setF a (s.asBfloat (fencPattern s.cfg s.din))).complete 0#64)

/-- `FDEC fA -> d` (R215). -/
def execFdec (a : FReg) (s : State) : Result := .next (s.complete (fdecPattern s.cfg (s.freg a).toNat))

/-- `FSETZ fA` (R219): positive zero. -/
def execFsetz (a : FReg) (s : State) : Result := .next ((s.setF a (s.asBfloat 0)).complete 0#64)

/-- `FSETINF fA, #s` (R220). -/
def execFsetinf (a : FReg) (s : State) : Result :=
  .next ((s.setF a (s.asBfloat (signedBody s.cfg s.dinBit0 (allOnesBody s.cfg - 1)))).complete 0#64)

/-- `FSETNAN fA, #t` (R221). -/
def execFsetnan (a : FReg) (s : State) : Result :=
  .next ((s.setF a (s.asBfloat (signedBody s.cfg s.dinBit0 (allOnesBody s.cfg)))).complete 0#64)

/-- `FCLASS fA -> c` (R226): the class code in bits 3:0, the sign bit in bit 4. -/
def execFclass (a : FReg) (s : State) : Result :=
  .next (s.complete (BitVec.ofNat 64
    (classCode (bfClass s.cfg (s.freg a).toNat) + 16 * (bfSign s.cfg (s.freg a).toNat).toNat)))

/-- `FMVX fA, #bits` (R227). -/
def execFmvx (a : FReg) (s : State) : Result := .next ((s.setF a s.dinPattern).complete 0#64)

/-- `FMXV fA -> bits` (R228). -/
def execFmxv (a : FReg) (s : State) : Result := .next (s.complete ((s.freg a).setWidth 64))

/-- `FADD fA, fB`, rejected (R222): the registers are "neither read nor written". -/
def execFadd (_ _ : FReg) (s : State) : Result := .next (s.raise .unsupported)

/-- `FSUB fA, fB`, rejected (R223). -/
def execFsub (_ _ : FReg) (s : State) : Result := .next (s.raise .unsupported)

/-- `FMUL fA, fB`, rejected (R224). -/
def execFmul (_ _ : FReg) (s : State) : Result := .next (s.raise .unsupported)

/-- `FDIV fA, fB`, rejected (R225), "also when `f[B]` is a zero". -/
def execFdiv (_ _ : FReg) (s : State) : Result := .next (s.raise .unsupported)

end Sys2Proof.Machine
end

