-- ==== Sys2Proof/Machine/Adder.lean ====
section
/-!
DEFINITION. The carry-propagating adder, the two's-complement subtractor and the shift-and-add multiplier
(spec/40_integer_arith.md R109 to R116).
-/

namespace Sys2Proof.Machine

/-- The adder of R109: `(unsigned(a) + unsigned(b)) mod 2^N`. -/
def addWord {n : Nat} (a b : BitVec n) : BitVec n := a + b

/-- `twos_complement` of R111 and R113: bit flip plus one. -/
def twosComplement {n : Nat} (v : BitVec n) : BitVec n := addWord (~~~v) (1#n)

/-- The subtractor of R111: the adder on the two's complement of the subtrahend. -/
def subWord {n : Nat} (a b : BitVec n) : BitVec n := addWord a (twosComplement b)

/-- The loop of R112, `k` iterations to go: `acc` the sum so far, `m` the shifted multiplicand, `c` the shifted copy of the
multiplier. -/
def mulLoop {n : Nat} : Nat → BitVec n → BitVec n → BitVec n → BitVec n
  | 0, acc, _, _ => acc
  | k + 1, acc, m, c => mulLoop k (if c.getLsbD 0 then addWord acc m else acc) (m <<< 1) (c >>> 1)

/-- The shift-and-add multiplier of R112. -/
def mulWord {n : Nat} (a b : BitVec n) : BitVec n := mulLoop n (0#n) a b

/-! ## The adder's structure (R110), which "a model may use instead of R109" -/

/-- The `k` blocks of an integer register from block `j` on: block `k` holds bits `8k+7 .. 8k` (R24). -/
def blocksFrom {n : Nat} (v : BitVec n) (j : Nat) : Nat → List Byte
  | 0 => []
  | k + 1 => v.extractLsb' (8 * j) 8 :: blocksFrom v (j + 1) k

/-- `NBLOCKS = ceil(N / 8)` (R7). -/
def nblocks (n : Nat) : Nat := (n + 7) / 8

/-- The storage blocks of a register, block 0 first (R24). -/
def blocksOf {n : Nat} (v : BitVec n) : List Byte := blocksFrom v 0 (nblocks n)

/-- The value of a list of blocks, block 0 least significant (R51). -/
def blocksValue : List Byte → Nat
  | [] => 0
  | b :: bs => b.toNat + 256 * blocksValue bs

/-- The loop of R110: each block sum in a 16-bit accumulator, its bit 8 the carry into the next block. -/
def addBlocksLoop : List Byte → List Byte → BitVec 16 → List Byte
  | a :: as, b :: bs, carry =>
    let acc := a.setWidth 16 + b.setWidth 16 + carry
    acc.extractLsb' 0 8 :: addBlocksLoop as bs (acc.extractLsb' 8 1 |>.setWidth 16)
  | _, _, _ => []

/-- `mask_last` of R110 on the last block: the bits at index `N` and above are cleared. -/
def maskLast (n : Nat) : List Byte → List Byte
  | [] => []
  | [b] => [if n % 8 = 0 then b else b &&& BitVec.ofNat 8 (2 ^ (n % 8) - 1)]
  | b :: c :: bs => b :: maskLast n (c :: bs)

/-- The block adder of R110: blocks of the sum of two registers. -/
def addBlocks {n : Nat} (a b : BitVec n) : List Byte :=
  maskLast n (addBlocksLoop (blocksOf a) (blocksOf b) (0#16))

end Sys2Proof.Machine
end

