-- ==== Sys2Proof/Machine/Decimal.lean ====
section
/-!
DEFINITION. The Decimal and its digit arithmetic, the binary-to-decimal converter and the texts it writes
(spec/43_decimal_text.md R170 to R179).
-/

namespace Sys2Proof.Machine

/-- A sign flag and a digit vector, least significant digit first (R170). -/
structure Decimal where
  sign : Bool
  digits : List Nat
deriving DecidableEq, Repr

/-- The magnitude of a digit vector: `sum(d[k] * 10^k)` (R170). -/
def digitsValue : List Nat → Nat
  | [] => 0
  | d :: ds => d + 10 * digitsValue ds

/-- `val(D)` (R170). -/
def Decimal.value (d : Decimal) : Int := if d.sign then -(digitsValue d.digits : Int) else digitsValue d.digits

/-- R170: digits 0 to 9, at least one, no superfluous high zero, and zero carries no sign. -/
def Decimal.normalised (d : Decimal) : Bool :=
  d.digits.all (fun k => decide (k ≤ 9)) && decide (1 ≤ d.digits.length)
    && (d.digits.length == 1 || d.digits.getLast? != some 0) && (d.digits != [0] || !d.sign)

/-- A carry added into a digit vector (R171, where the other operand has no digit left). -/
def addCarry : List Nat → Nat → List Nat
  | [], c => if c = 1 then [1] else []
  | d :: ds, c => (d + c) % 10 :: addCarry ds ((d + c) / 10)

/-- The digit loop of R171 with the carry `c`. -/
def addDigits : List Nat → List Nat → Nat → List Nat
  | [], ys, c => addCarry ys c
  | x :: xs, [], c => addCarry (x :: xs) c
  | x :: xs, y :: ys, c => (x + y + c) % 10 :: addDigits xs ys ((x + y + c) / 10)

/-- `unpad` (R174): superfluous high zero digits removed, never index 0. -/
def unpad : List Nat → List Nat
  | [] => []
  | [d] => [d]
  | d :: e :: ds =>
    match unpad (e :: ds) with
    | [0] => [d]
    | r => d :: r

/-- The digit loop of R172 with the borrow `b`, the larger magnitude first. -/
def subDigits : List Nat → List Nat → Nat → List Nat
  | [], _, _ => []
  | x :: xs, ys, b =>
    (x + 10 - ys.headD 0 - b) % 10 :: subDigits xs ys.tail (if x < ys.headD 0 + b then 1 else 0)

/-- `D` with its sign flag inverted (R171). -/
def Decimal.flip (d : Decimal) : Decimal := { d with sign := !d.sign }

/-- R171 for operands of one sign. -/
def decAddSame (x y : Decimal) : Decimal := { sign := x.sign, digits := addDigits x.digits y.digits 0 }

/-- R172 for operands of one sign: the smaller magnitude from the larger; a zero result has a clear sign flag. -/
def decSubSame (x y : Decimal) : Decimal :=
  if digitsValue x.digits = digitsValue y.digits then { sign := false, digits := [0] }
  else if digitsValue y.digits < digitsValue x.digits then
    { sign := x.sign, digits := unpad (subDigits x.digits y.digits 0) }
  else { sign := !x.sign, digits := unpad (subDigits y.digits x.digits 0) }

/-- `dec_add` (R171); operands of different signs are delegated to the subtraction. -/
def decAdd (x y : Decimal) : Decimal := if x.sign = y.sign then decAddSame x y else decSubSame x y.flip

/-- `dec_sub` (R172); operands of different signs are delegated to the addition. No command uses it. -/
def decSub (x y : Decimal) : Decimal := if x.sign = y.sign then decSubSame x y else decAddSame x y.flip

/-- A digit vector times one digit, with the carry `c`. -/
def mulDigit : List Nat → Nat → Nat → List Nat
  | [], _, c => [c]
  | x :: xs, y, c => (x * y + c) % 10 :: mulDigit xs y ((x * y + c) / 10)

/-- A digit vector times a digit vector. -/
def mulDigits (xs : List Nat) : List Nat → List Nat
  | [] => [0]
  | y :: ys => addDigits (mulDigit xs y 0) (0 :: mulDigits xs ys) 0

/-- `dec_mul`, which R173 gives by its result; the digit algorithm is the model's (log 13). No command uses it. -/
def decMul (x y : Decimal) : Decimal :=
  let ds := unpad (mulDigits x.digits y.digits)
  { sign := (x.sign ^^ y.sign) && ds != [0], digits := ds }

/-! ## Binary to decimal -/

/-- The loop of R175, `k` bits of `mag` to go, `i` the next one. -/
def b2dLoop {n : Nat} (mag : BitVec n) : Nat → Nat → Decimal → Decimal → Decimal
  | 0, _, acc, _ => acc
  | k + 1, i, acc, m => b2dLoop mag k (i + 1) (if mag.getLsbD i then decAdd acc m else acc) (decAdd m m)

/-- `b2d(v)` (R175): the magnitude converted, then the sign flag set. -/
def b2d {n : Nat} (v : BitVec n) : Decimal :=
  { b2dLoop (if v.msb then -v else v) n 0 { sign := false, digits := [0] } { sign := false, digits := [1] } with
    sign := v.msb }

/-- The digits of a Decimal as cells of `DM` (R36). -/
def Decimal.cells (d : Decimal) : List Digit := d.digits.map (BitVec.ofNat 4)

/-! ## Texts written (R177 to R179) -/

/-- Minus, `0x2D` (R179). -/
def charMinus : Byte := 0x2D#8

/-- `'0'`, `0x30` (R179). -/
def charZero : Byte := 0x30#8

/-- The code of a decimal digit: `0x30 + d` (R177). -/
def digitChar (d : Nat) : Byte := charZero + BitVec.ofNat 8 d

/-- The text of `TOSTR`: minus where the sign flag is set, then the digits, most significant first (R177). -/
def Decimal.text (d : Decimal) : List Byte := (if d.sign then [charMinus] else []) ++ d.digits.reverse.map digitChar

/-- The characters of bits `k - 1` down to 0. -/
def bitCharsBelow {n : Nat} (v : BitVec n) : Nat → List Byte
  | 0 => []
  | k + 1 => (if v.getLsbD k then 0x31#8 else 0x30#8) :: bitCharsBelow v k

/-- The text of `TOBIN`: `N` characters, most significant bit first (R178). -/
def binaryText {n : Nat} (v : BitVec n) : List Byte := bitCharsBelow v n

end Sys2Proof.Machine
end

