-- ==== Sys2Proof/Machine/TextParser.lean ====
section
/-!
DEFINITION. The decimal and hexadecimal text-to-binary converter (spec/43_decimal_text.md R179, R181 to R187).
-/

namespace Sys2Proof.Machine

/-- `'x'`, `'X'`, apostrophe (R179). -/
def charLowerX : Byte := 0x78#8
/-- `'X'` (R179). -/
def charUpperX : Byte := 0x58#8
/-- The apostrophe (R179). -/
def charApostrophe : Byte := 0x27#8

/-- `[0-9]`. -/
def isDecChar (c : Byte) : Bool := decide (0x30 ≤ c.toNat) && decide (c.toNat ≤ 0x39)

/-- `[a-f]`. -/
def isLowerHex (c : Byte) : Bool := decide (0x61 ≤ c.toNat) && decide (c.toNat ≤ 0x66)

/-- `[A-F]`. -/
def isUpperHex (c : Byte) : Bool := decide (0x41 ≤ c.toNat) && decide (c.toNat ≤ 0x46)

/-- `H` of R181: one of `0-9 a-f A-F` or the apostrophe. -/
def isHexChar (c : Byte) : Bool := isDecChar c || isLowerHex c || isUpperHex c || c == charApostrophe

/-- `nibble(c)` of R184. -/
def nibble (c : Byte) : Nat :=
  if isDecChar c then c.toNat - 0x30 else if isLowerHex c then c.toNat - 0x61 + 10 else c.toNat - 0x41 + 10

/-- The characters after `0x` or `0X` where the whole text matches HEX of R181. -/
def matchHex : List Byte → Option (List Byte)
  | z :: x :: body =>
    if z = charZero ∧ (x = charLowerX ∨ x = charUpperX) ∧ body ≠ [] ∧ body.all isHexChar = true then some body else none
  | _ => none

/-- The digit characters of a non-empty run of digits. -/
def matchDigits (body : List Byte) : Option (List Byte) :=
  if body ≠ [] ∧ body.all isDecChar = true then some body else none

/-- Whether there is a minus, and the digit characters, where the whole text matches DEC of R181. -/
def matchDec : List Byte → Option (Bool × List Byte)
  | [] => none
  | c :: rest =>
    if c = charMinus then (matchDigits rest).map (true, ·) else (matchDigits (c :: rest)).map (false, ·)

/-- The loop of R182 over the digit characters, the last one first, on `value` and `scale`. -/
def decLoop {n : Nat} : List Byte → BitVec n → BitVec n → BitVec n
  | [], value, _ => value
  | c :: cs, value, scale =>
    decLoop cs (addWord value (scale * BitVec.ofNat n (c.toNat - 0x30))) (scale * BitVec.ofNat n 10)

/-- The value of a run of digit characters (R182). -/
def decValue (n : Nat) (body : List Byte) : BitVec n := decLoop body.reverse (0#n) (BitVec.ofNat n 1)

/-- The loop of R184 over the characters after `0x`, the first one first. -/
def hexLoop {n : Nat} : List Byte → BitVec n → BitVec n
  | [], value => value
  | c :: cs, value =>
    hexLoop cs (if c = charApostrophe then value else (value <<< 4) ||| BitVec.ofNat n (nibble c))

/-- The value of the characters after `0x` (R184). -/
def hexValue (n : Nat) (body : List Byte) : BitVec n := hexLoop body (0#n)

/-- R180: the value of a text, HEX tried before DEC; none where it matches neither (R187). -/
def parseText (n : Nat) (text : List Byte) : Option (BitVec n) :=
  match matchHex text with
  | some body => some (hexValue n body)
  | none =>
    match matchDec text with
    | some (minus, body) => some (if minus then twosComplement (decValue n body) else decValue n body)
    | none => none

end Sys2Proof.Machine
end

