-- ==== Sys2Proof/Machine/DecimalText.lean ====
section
/-!
DEFINITION. Meanings of the commands of spec/43_decimal_text.md: conversion to and from text, and the buffer access commands.
-/

namespace Sys2Proof.Machine

/-- A Decimal into `DM`, `DLEN`, `DSIGN` (R176). -/
def State.storeDecimal (s : State) (d : Decimal) : Option State := s.storeDigits d.sign d.cells

/-- `B2D xA` (R176). -/
def execB2d (a : XReg) (s : State) : Result :=
  orStop (s.storeDecimal (b2d (s.xreg a))) .noSuchDigitCell fun t => .next (t.complete 0#64)

/-- `TOSTR xA` (R177): the Decimal to `DM` "exactly as B2D does", then its text to `CB`. -/
def execTostr (a : XReg) (s : State) : Result :=
  orStop (s.storeDecimal (b2d (s.xreg a))) .noSuchDigitCell fun t =>
    orStop (t.storeText (b2d (s.xreg a)).text) .noSuchCharCell fun u => .next (u.complete 0#64)

/-- `TOBIN xA` (R178). -/
def execTobin (a : XReg) (s : State) : Result :=
  orStop (s.storeText (binaryText (s.xreg a))) .noSuchCharCell fun t => .next (t.complete 0#64)

/-- `PARSE xA -> ok` (R180, R187): on failure `x[A] <- 0`, `FSR.pf <- 1`, `dout = 0`, and no fault (R257). -/
def execParse (a : XReg) (s : State) : Result :=
  orStop s.text .noSuchCharCell fun text =>
    match parseText s.cfg.n text with
    | some v => .next ((s.setX a v).complete 1#64)
    | none => .next ((s.setX a (0#s.cfg.n)).setPf.complete 0#64)

/-- `CBRST` (R190). -/
def execCbrst (s : State) : Result := .next (s.emptyText.complete 0#64)

/-- `CBPUT #c` (R191). -/
def execCbput (s : State) : Result :=
  if s.clen = s.cfg.cbSize then .next (s.raise .bufferOverflow)
  else orStop (s.appendChar s.dinChar) .noSuchCharCell fun t => .next (t.complete 0#64)

/-- `CBGET #i -> c` (R193). -/
def execCbget (s : State) : Result :=
  if s.clen ≤ s.udin then .next (s.raise .indexOutOfBounds)
  else orStop (s.charAt s.udin) .noSuchCharCell fun c => .next (s.complete (c.setWidth 64))

/-- `DMGET #k -> d` (R194). -/
def execDmget (s : State) : Result :=
  if s.dlen ≤ s.udin then .next (s.raise .indexOutOfBounds)
  else orStop (s.digitAt s.udin) .noSuchDigitCell fun d => .next (s.complete (d.setWidth 64))

end Sys2Proof.Machine
end

