-- ==== Sys2Proof/Machine/Divider.lean ====
section
/-!
DEFINITION. The restoring long-division engine with sign correction (spec/42_division.md R160), at width `W = N + 1`.
-/

namespace Sys2Proof.Machine

/-- The magnitude of an operand at width `N + 1` (R160 step 1). -/
def magnitudeWide {n : Nat} (v : BitVec n) : BitVec (n + 1) :=
  if v.msb then -(v.signExtend (n + 1)) else v.signExtend (n + 1)

/-- One iteration of R160 step 3 at quotient bit `i`, on the triple (subtractand, accumulator, quotient). -/
def divStep {w : Nat} (i : Nat) (t : BitVec w × BitVec w × BitVec w) : BitVec w × BitVec w × BitVec w :=
  if t.1 ≤ t.2.1 then (t.1 >>> 1, t.2.1 - t.1, t.2.2 ||| (1#w <<< i)) else (t.1 >>> 1, t.2.1, t.2.2)

/-- The iterations of R160 step 3 for `i = k - 1` down to 0. -/
def divLoop {w : Nat} : Nat → BitVec w × BitVec w × BitVec w → BitVec w × BitVec w × BitVec w
  | 0, t => t
  | k + 1, t => divLoop k (divStep k t)

/-- Two's-complement negation where the sign is to be restored (R160 step 4). -/
def restoreSign {w : Nat} (negative : Bool) (v : BitVec w) : BitVec w := if negative then -v else v

/-- `divide(a, b)` of R160 for `b != 0`: quotient and remainder, truncated back to `N` bits. -/
def divideWord {n : Nat} (a b : BitVec n) : BitVec n × BitVec n :=
  let absA := magnitudeWide a
  let absB := magnitudeWide b
  if absA < absB then (0#n, a)
  else
    let shift := Nat.log2 absA.toNat - Nat.log2 absB.toNat
    let t := divLoop (shift + 1) (absB <<< shift, absA, 0#(n + 1))
    ((restoreSign (a.msb ^^ b.msb) t.2.2).setWidth n, (restoreSign a.msb t.2.1).setWidth n)

end Sys2Proof.Machine
end

