-- ==== Sys2Proof/Machine/Division.lean ====
section
/-!
DEFINITION. Meanings of the commands of spec/42_division.md. `DIVREM` with `A = C` never reaches its meaning: the decoder
rejects it (R79 step 4, R259).
-/

namespace Sys2Proof.Machine

/-- The zero-divisor check of R165, before anything is computed; then `k` with quotient and remainder. -/
def withQuotient (s : State) (a b : XReg) (k : BitVec s.cfg.n × BitVec s.cfg.n → Result) : Result :=
  if s.xreg b = 0#s.cfg.n then .next (s.raise .divideByZero) else k (divideWord (s.xreg a) (s.xreg b))

/-- `DIV xA, xB` (R161). -/
def execDiv (a b : XReg) (s : State) : Result :=
  withQuotient s a b fun qr => .next ((s.setX a qr.1).complete 0#64)

/-- `REM xA, xB` (R162). -/
def execRem (a b : XReg) (s : State) : Result :=
  withQuotient s a b fun qr => .next ((s.setX a qr.2).complete 0#64)

/-- `DIVREM xA, xB, xC` (R163): quotient to `x[A]`, remainder to `x[C]`. -/
def execDivrem (a b c : XReg) (s : State) : Result :=
  withQuotient s a b fun qr => .next (((s.setX a qr.1).setX c qr.2).complete 0#64)

end Sys2Proof.Machine
end

