-- ==== Sys2Proof/Machine/IntegerArith.lean ====
section
/-!
DEFINITION. Meanings of the commands of spec/40_integer_arith.md: construction, conversion, add, subtract, multiply, negate,
complement, increment, decrement. None raises a fault (R100); every result is an `N`-bit pattern.
-/

namespace Sys2Proof.Machine

/-- `LDIS xA, #v` (R101). -/
def execLdis (a : XReg) (s : State) : Result := .next ((s.setX a (fromSigned s.cfg.n s.din)).complete 0#64)

/-- `LDIU xA, #v` (R102). -/
def execLdiu (a : XReg) (s : State) : Result := .next ((s.setX a (fromUnsigned s.cfg.n s.din)).complete 0#64)

/-- `SETRAW xA, #bits` (R103): "computes exactly what `LDIU` computes". -/
def execSetraw (a : XReg) (s : State) : Result := .next ((s.setX a (fromUnsigned s.cfg.n s.din)).complete 0#64)

/-- `MOV xA, xB` (R104). -/
def execMov (a b : XReg) (s : State) : Result := .next ((s.setX a (s.xreg b)).complete 0#64)

/-- `CLR xA` (R105). -/
def execClr (a : XReg) (s : State) : Result := .next ((s.setX a (0#s.cfg.n)).complete 0#64)

/-- `STIS xA -> v` (R106). -/
def execStis (a : XReg) (s : State) : Result := .next (s.complete (toSigned (s.xreg a)))

/-- `STIU xA -> v` (R107). -/
def execStiu (a : XReg) (s : State) : Result := .next (s.complete (toUnsigned (s.xreg a)))

/-- `I2D xA -> d` (R108): "the value converted is the `STIS` result, not `signed(x[A])`". -/
def execI2d (a : XReg) (s : State) : Result := .next (s.complete (intToDouble (toSigned (s.xreg a)).toInt))

/-- `ADD xA, xB` (R109). -/
def execAdd (a b : XReg) (s : State) : Result := .next ((s.setX a (addWord (s.xreg a) (s.xreg b))).complete 0#64)

/-- `SUB xA, xB` (R111). -/
def execSub (a b : XReg) (s : State) : Result := .next ((s.setX a (subWord (s.xreg a) (s.xreg b))).complete 0#64)

/-- `MUL xA, xB` (R112). -/
def execMul (a b : XReg) (s : State) : Result := .next ((s.setX a (mulWord (s.xreg a) (s.xreg b))).complete 0#64)

/-- `NEG xA, xB` (R113). -/
def execNeg (a b : XReg) (s : State) : Result := .next ((s.setX a (twosComplement (s.xreg b))).complete 0#64)

/-- `NOT xA, xB` (R114). -/
def execNot (a b : XReg) (s : State) : Result := .next ((s.setX a (~~~(s.xreg b))).complete 0#64)

/-- `INC xA` (R115). -/
def execInc (a : XReg) (s : State) : Result := .next ((s.setX a (addWord (s.xreg a) (1#s.cfg.n))).complete 0#64)

/-- `DEC xA` (R116): `unsigned(x[A]) + (2^N - 1)`. -/
def execDec (a : XReg) (s : State) : Result :=
  .next ((s.setX a (addWord (s.xreg a) (BitVec.allOnes s.cfg.n))).complete 0#64)

end Sys2Proof.Machine
end

