-- ==== Sys2Proof/Machine/Comparator.lean ====
section
/-!
DEFINITION. The comparator (spec/41_shift_compare_bits.md R134): the signed order, and doc00's bit-by-bit algorithm, "which a
model may use instead and which gives the same answer".
-/

namespace Sys2Proof.Machine

/-- `signed(a) < signed(b)`, the order of all six compares (R134). -/
def lessWord {n : Nat} (a b : BitVec n) : Bool := decide (a.toInt < b.toInt)

/-- `a = b`, all `N` bits (R135). -/
def equalWord {n : Nat} (a b : BitVec n) : Bool := decide (a = b)

/-- The scan of R134 from bit `i - 1` down to bit 0: the first differing bit decides, the one holding 0 is less. -/
def lessFrom {n : Nat} (a b : BitVec n) : Nat → Bool
  | 0 => false
  | i + 1 => if a.getLsbD i != b.getLsbD i then !a.getLsbD i else lessFrom a b i

/-- `less(a, b)` as R134's algorithm: differing signs first, then bit by bit from `N - 2` down. -/
def lessBits {n : Nat} (a b : BitVec n) : Bool :=
  if a.msb != b.msb then a.msb else lessFrom a b (n - 1)

end Sys2Proof.Machine
end

