-- ==== Sys2Proof/Machine/Shifter.lean ====
section
/-!
DEFINITION. The barrel shifter with sign extension (spec/41_shift_compare_bits.md R131 to R133) and bit-level access (R150 to
R154).
-/

namespace Sys2Proof.Machine

/-- The left shift of R131 by `j >= 0` places: zero-filled, truncated at width `N`. -/
def shlWord {n : Nat} (v : BitVec n) (j : Nat) : BitVec n := if n ≤ j then 0#n else v <<< j

/-- `sra(v, j)` of R132: the arithmetic right shift by `j >= 0` places. -/
def sraWord {n : Nat} (v : BitVec n) (j : Nat) : BitVec n :=
  if n ≤ j then (if v.msb then BitVec.allOnes n else 0#n) else v.sshiftRight j

/-- `SHL` by a signed amount: a negative one shifts in the opposite direction (R131). -/
def shiftLeftBy {n : Nat} (v : BitVec n) (k : Int) : BitVec n :=
  if 0 ≤ k then shlWord v k.toNat else sraWord v (-k).toNat

/-- `SHR` by a signed amount: a negative one shifts in the opposite direction (R132). -/
def shiftRightBy {n : Nat} (v : BitVec n) (k : Int) : BitVec n :=
  if 0 ≤ k then sraWord v k.toNat else shlWord v (-k).toNat

/-! ## The shifter's structure (R133): `j` single-bit shifts -/

/-- One single-bit left shift (R133): every bit up one place, bit 0 cleared, old bit `N-1` dropped. -/
def shlOne {n : Nat} (v : BitVec n) : BitVec n := v <<< 1

/-- One single-bit right shift (R133): every bit down one place, the old sign bit into bit `N-1`. -/
def sraOne {n : Nat} (v : BitVec n) : BitVec n :=
  (v >>> 1) ||| (if v.msb then 1#n <<< (n - 1) else 0#n)

/-- `f` applied `j` times. -/
def iterate {n : Nat} (f : BitVec n → BitVec n) : Nat → BitVec n → BitVec n
  | 0, v => v
  | j + 1, v => iterate f j (f v)

/-! ## Bit-level access -/

/-- `v | 2^i` (R150). -/
def setBit {n : Nat} (v : BitVec n) (i : Nat) : BitVec n := v ||| (1#n <<< i)

/-- `v & ~(2^i)` (R151). -/
def clearBit {n : Nat} (v : BitVec n) (i : Nat) : BitVec n := v &&& ~~~(1#n <<< i)

/-- Block `k` of a register: bits `8k+7 .. 8k`, the bits at index `N` and above read 0 (R24, R152). -/
def blockOf {n : Nat} (v : BitVec n) (k : Nat) : Byte := v.extractLsb' (8 * k) 8

end Sys2Proof.Machine
end

