-- ==== Sys2Proof/Machine/ShiftCompareBits.lean ====
section
/-!
DEFINITION. Meanings of the commands of spec/41_shift_compare_bits.md: shifts, compares, `MSB`, bit and block access. Only the
four indexed commands raise a fault of their own, `IndexOutOfBounds` (R130, R154).
-/

namespace Sys2Proof.Machine

/-- `SHL xA, #k` (R131). -/
def execShl (a : XReg) (s : State) : Result := .next ((s.setX a (shiftLeftBy (s.xreg a) s.sdin)).complete 0#64)

/-- `SHR xA, #k` (R132). -/
def execShr (a : XReg) (s : State) : Result := .next ((s.setX a (shiftRightBy (s.xreg a) s.sdin)).complete 0#64)

/-- `CEQ xA, xB -> r` (R135). -/
def execCeq (a b : XReg) (s : State) : Result := .next (s.complete (truth (equalWord (s.xreg a) (s.xreg b))))

/-- `CNE xA, xB -> r` (R136). -/
def execCne (a b : XReg) (s : State) : Result := .next (s.complete (truth (!equalWord (s.xreg a) (s.xreg b))))

/-- `CLT xA, xB -> r` (R137): `less(x[A], x[B])`. -/
def execClt (a b : XReg) (s : State) : Result := .next (s.complete (truth (lessWord (s.xreg a) (s.xreg b))))

/-- `CGT xA, xB -> r` (R138): `less(x[B], x[A])`. -/
def execCgt (a b : XReg) (s : State) : Result := .next (s.complete (truth (lessWord (s.xreg b) (s.xreg a))))

/-- `CLE xA, xB -> r` (R139): `not less(x[B], x[A])`. -/
def execCle (a b : XReg) (s : State) : Result := .next (s.complete (truth (!lessWord (s.xreg b) (s.xreg a))))

/-- `CGE xA, xB -> r` (R140): `not less(x[A], x[B])`. -/
def execCge (a b : XReg) (s : State) : Result := .next (s.complete (truth (!lessWord (s.xreg a) (s.xreg b))))

/-- `MSB xA -> k` (R141): `sext_64(msb(x[A]))`. -/
def execMsb (a : XReg) (s : State) : Result :=
  .next (s.complete (BitVec.ofInt 64 (msbIndex (s.xreg a).toNat)))

/-- The index check of R154: `k` with the index where it is below `bound`, else `IndexOutOfBounds` and nothing else. -/
def withIndex (s : State) (bound : Nat) (k : Nat → Result) : Result :=
  if bound ≤ s.udin then .next (s.raise .indexOutOfBounds) else k s.udin

/-- `SETB xA, #i` (R150, R154). -/
def execSetb (a : XReg) (s : State) : Result :=
  withIndex s s.cfg.n fun i => .next ((s.setX a (setBit (s.xreg a) i)).complete 0#64)

/-- `RSTB xA, #i` (R151, R154). -/
def execRstb (a : XReg) (s : State) : Result :=
  withIndex s s.cfg.n fun i => .next ((s.setX a (clearBit (s.xreg a) i)).complete 0#64)

/-- `TSTB xA, #i -> b` (R153, R154). -/
def execTstb (a : XReg) (s : State) : Result :=
  withIndex s s.cfg.n fun i => .next (s.complete (truth ((s.xreg a).getLsbD i)))

/-- `BLKR xA, #k -> b` (R152, R154). -/
def execBlkr (a : XReg) (s : State) : Result :=
  withIndex s (nblocks s.cfg.n) fun k => .next (s.complete ((blockOf (s.xreg a) k).setWidth 64))

end Sys2Proof.Machine
end

