-- ==== Sys2Proof/Machine/System.lean ====
section
/-!
DEFINITION. Meanings of the commands of spec/45_system.md, and the control and status registers of spec/10_state.md R31.
-/

namespace Sys2Proof.Machine

/-- The value of a control and status register by number; none where no register has the number (R31). A value is read as 64
bits (log 11). -/
def State.csr (s : State) (k : Nat) : Option Native :=
  match k with
  | 0 => some (BitVec.ofNat 64 s.cfg.n)
  | 1 => some 8#64
  | 2 => some (BitVec.ofNat 64 s.cfg.nf)
  | 3 => some (BitVec.ofNat 64 s.cfg.e)
  | 4 => some s.fsr
  | 5 => some (BitVec.ofNat 64 s.clen)
  | 6 => some (BitVec.ofNat 64 s.dlen)
  | 7 => some (BitVec.ofNat 64 s.dsign.toNat)
  | _ => none

/-- `CSRR #n -> v` (R240). -/
def execCsrr (s : State) : Result :=
  match s.csr s.udin with
  | some v => .next (s.complete v)
  | none => .next (s.raise .illegalCommand)

/-- `CLRF` (R241). -/
def execClrf (s : State) : Result := .next (s.clearFaults.complete 0#64)

end Sys2Proof.Machine
end

