-- ==== Sys2Proof/Machine/Dispatch.lean ====
section
/-!
DEFINITION. The dispatch of a decoded command to its meaning, one arm per command.
-/

namespace Sys2Proof.Machine

def exec (i : Instr) (s : State) : Host.Outcome State Fault Refusal :=
  match i with
  | .ldis a => Sys2Proof.Machine.execLdis a s
  | .ldiu a => Sys2Proof.Machine.execLdiu a s
  | .setraw a => Sys2Proof.Machine.execSetraw a s
  | .mov a b => Sys2Proof.Machine.execMov a b s
  | .clr a => Sys2Proof.Machine.execClr a s
  | .stis a => Sys2Proof.Machine.execStis a s
  | .stiu a => Sys2Proof.Machine.execStiu a s
  | .i2d a => Sys2Proof.Machine.execI2d a s
  | .add a b => Sys2Proof.Machine.execAdd a b s
  | .sub a b => Sys2Proof.Machine.execSub a b s
  | .mul a b => Sys2Proof.Machine.execMul a b s
  | .div a b => Sys2Proof.Machine.execDiv a b s
  | .rem a b => Sys2Proof.Machine.execRem a b s
  | .divrem a b c => Sys2Proof.Machine.execDivrem a b c s
  | .neg a b => Sys2Proof.Machine.execNeg a b s
  | .not a b => Sys2Proof.Machine.execNot a b s
  | .inc a => Sys2Proof.Machine.execInc a s
  | .dec a => Sys2Proof.Machine.execDec a s
  | .shl a => Sys2Proof.Machine.execShl a s
  | .shr a => Sys2Proof.Machine.execShr a s
  | .ceq a b => Sys2Proof.Machine.execCeq a b s
  | .cne a b => Sys2Proof.Machine.execCne a b s
  | .clt a b => Sys2Proof.Machine.execClt a b s
  | .cgt a b => Sys2Proof.Machine.execCgt a b s
  | .cle a b => Sys2Proof.Machine.execCle a b s
  | .cge a b => Sys2Proof.Machine.execCge a b s
  | .msb a => Sys2Proof.Machine.execMsb a s
  | .setb a => Sys2Proof.Machine.execSetb a s
  | .rstb a => Sys2Proof.Machine.execRstb a s
  | .tstb a => Sys2Proof.Machine.execTstb a s
  | .blkr a => Sys2Proof.Machine.execBlkr a s
  | .b2d a => Sys2Proof.Machine.execB2d a s
  | .tostr a => Sys2Proof.Machine.execTostr a s
  | .tobin a => Sys2Proof.Machine.execTobin a s
  | .parse a => Sys2Proof.Machine.execParse a s
  | .cbrst => Sys2Proof.Machine.execCbrst s
  | .cbput => Sys2Proof.Machine.execCbput s
  | .cbget => Sys2Proof.Machine.execCbget s
  | .dmget => Sys2Proof.Machine.execDmget s
  | .fenc a => Sys2Proof.Machine.execFenc a s
  | .fdec a => Sys2Proof.Machine.execFdec a s
  | .fsetz a => Sys2Proof.Machine.execFsetz a s
  | .fsetinf a => Sys2Proof.Machine.execFsetinf a s
  | .fsetnan a => Sys2Proof.Machine.execFsetnan a s
  | .fclass a => Sys2Proof.Machine.execFclass a s
  | .fmvx a => Sys2Proof.Machine.execFmvx a s
  | .fmxv a => Sys2Proof.Machine.execFmxv a s
  | .fadd a b => Sys2Proof.Machine.execFadd a b s
  | .fsub a b => Sys2Proof.Machine.execFsub a b s
  | .fmul a b => Sys2Proof.Machine.execFmul a b s
  | .fdiv a b => Sys2Proof.Machine.execFdiv a b s
  | .csrr => Sys2Proof.Machine.execCsrr s
  | .clrf => Sys2Proof.Machine.execClrf s

end Sys2Proof.Machine
end

