-- ==== Sys2Proof/Machine/Step.lean ====
section
/-!
DEFINITION. One step: the unit takes the host's next move (spec/70_reset_and_hazards.md R285), decodes a presented command and
runs it to completion (spec/00_scope.md R11, spec/10_state.md R20).
-/

namespace Sys2Proof.Machine

/-- A command word with its operand on `cmd_din`: decoded, then run (R79). -/
def runCommand (cw : CmdWord) (s : State) : Host.Outcome State Fault Refusal :=
  match decode cw with
  | .ok i => exec i s
  | .error e => illegalWord e s

/-- One step of the unit: the host's next move, if there is one. -/
def step (s : State) : Host.Outcome State Fault Refusal :=
  if s.cfg.InRange then
    match s.pending with
    | [] => idle s
    | .reset :: rest => .next (s.assertReset rest)
    | .present c :: rest => runCommand c.cw (s.accept rest c.din)
  else refuseConfiguration

/-- `s` with the instruction whose bits are `w` presented as the host's next move (log 4): command word bits 31:0, operand
bits 95:32, which are 0 where `nbits` does not reach them. -/
def State.withFetchWord (s : State) (nbits w : Nat) : State :=
  { s with
    pending :=
      .present { cw := BitVec.ofNat 32 (w % 2 ^ nbits), din := BitVec.ofNat 64 (w % 2 ^ nbits / 2 ^ 32) } :: s.pending }

end Sys2Proof.Machine
end

