-- ==== Sys2Proof/Safety.lean ====
section
/-!
DEFINITION. The terms in which statements speak of the unit: the invariant of its state, what a command leaves unchanged, what
taking a fault does, and the numbers that patterns, numerals and texts stand for.
-/

namespace Sys2Proof.Machine

/-! ## The invariant -/

/-- The architectural Decimal `(csr.DSIGN, DM[0 .. csr.DLEN-1])` (R170). -/
def State.decimal (s : State) : Decimal :=
  { sign := s.dsign, digits := (memReadList s.dm 0 s.dlen).map BitVec.toNat }

/-- What holds of the state after reset and after every step. -/
structure State.Inv (s : State) : Prop where
  /-- The parameters are in the ranges of R7. -/
  inRange : s.cfg.InRange
  /-- The masking invariant of the integer registers (R25). -/
  xMasked : ∀ r, s.xpat r < 2 ^ s.cfg.n
  /-- A bfloat register holds an `NF`-bit pattern (R28). -/
  fMasked : ∀ r, s.fpat r < 2 ^ s.cfg.nf
  /-- `CB` is in canonical form and lists no address outside its space (R50). -/
  cbWf : Memory.wf (w := 8) s.cb = true ∧ Memory.below (w := 8) s.cfg.cbSize s.cb = true
  /-- `CLEN` is 0 to `CB_SIZE` (R31). -/
  clenBound : s.clen ≤ s.cfg.cbSize
  /-- `DM` is in canonical form and lists no address outside its space (R50). -/
  dmWf : Memory.wf s.dm = true ∧ Memory.below s.cfg.n s.dm = true
  /-- `DLEN` is 1 to `DM_SIZE` (R31). -/
  dlenBound : 1 ≤ s.dlen ∧ s.dlen ≤ s.cfg.n
  /-- The Decimal invariant (R37). -/
  decimalNormalised : s.decimal.normalised = true
  /-- The reserved bits of `FSR` read 0 and its code is one of R250's (R33, U8). -/
  fsrLegal : reservedFsrZero s.fsr = true ∧ (fcode s.fsr).toNat ≤ 5

/-! ## Frames -/

/-- Configuration and input ports as before. -/
structure KeepsPorts (s t : State) : Prop where
  cfg : t.cfg = s.cfg
  pending : t.pending = s.pending
  din : t.din = s.din

/-- Every integer register but those of `rs` as before. -/
def KeepsX (rs : List XReg) (s t : State) : Prop := ∀ r, r ∉ rs → t.xpat r = s.xpat r

/-- Every bfloat register but those of `rs` as before. -/
def KeepsF (rs : List FReg) (s t : State) : Prop := ∀ r, r ∉ rs → t.fpat r = s.fpat r

/-- `CLEN` and every cell of `CB` as before. -/
def KeepsText (s t : State) : Prop := t.clen = s.clen ∧ ∀ i, memRead (w := 8) t.cb i = memRead (w := 8) s.cb i

/-- `DLEN`, `DSIGN` and every cell of `DM` as before. -/
def KeepsDecimal (s t : State) : Prop :=
  t.dlen = s.dlen ∧ t.dsign = s.dsign ∧ ∀ k, memRead t.dm k = memRead s.dm k

/-- Nothing but the integer registers of `rs` and the response may differ. -/
structure OnlyX (rs : List XReg) (s t : State) : Prop where
  ports : KeepsPorts s t
  xs : KeepsX rs s t
  fs : KeepsF [] s t
  text : KeepsText s t
  decimal : KeepsDecimal s t
  fsr : t.fsr = s.fsr

/-- Nothing but the bfloat registers of `rs` and the response may differ. -/
structure OnlyF (rs : List FReg) (s t : State) : Prop where
  ports : KeepsPorts s t
  xs : KeepsX [] s t
  fs : KeepsF rs s t
  text : KeepsText s t
  decimal : KeepsDecimal s t
  fsr : t.fsr = s.fsr

/-- Nothing but the response differs. -/
abbrev OnlyResponse (s t : State) : Prop := OnlyX [] s t

/-- Nothing but the response, `CLEN` and the cells of `CB` whose address is in `addr` may differ. For cells at or above the new
`CLEN` this is the model's choice (log 8). -/
structure OnlyText (addr : Nat → Prop) (s t : State) : Prop where
  ports : KeepsPorts s t
  xs : KeepsX [] s t
  fs : KeepsF [] s t
  cells : ∀ i, ¬addr i → memRead (w := 8) t.cb i = memRead (w := 8) s.cb i
  decimal : KeepsDecimal s t
  fsr : t.fsr = s.fsr

/-- Nothing but the response, `DLEN`, `DSIGN` and the cells of `DM` below the new `DLEN` may differ; of the cells from there on
this is the model's choice (log 8). -/
structure OnlyDecimal (s t : State) : Prop where
  ports : KeepsPorts s t
  xs : KeepsX [] s t
  fs : KeepsF [] s t
  text : KeepsText s t
  cells : ∀ k, t.dlen ≤ k → memRead t.dm k = memRead s.dm k
  fsr : t.fsr = s.fsr

/-- Nothing but the response, `CLEN`, `DLEN`, `DSIGN` and the cells of `CB` and `DM` below the new lengths may differ; of the
cells from there on this is the model's choice (log 8). -/
structure OnlyTextAndDecimal (s t : State) : Prop where
  ports : KeepsPorts s t
  xs : KeepsX [] s t
  fs : KeepsF [] s t
  chars : ∀ i, t.clen ≤ i → memRead (w := 8) t.cb i = memRead (w := 8) s.cb i
  digits : ∀ k, t.dlen ≤ k → memRead t.dm k = memRead s.dm k
  fsr : t.fsr = s.fsr

/-- The response of a command that completed (R11, R250). -/
def completedWith (dout : Native) : Option Response := some { fault := 0#4, dout := dout }

/-- What a fault does (R256): the response is its code with `dout = 0`; `fcode` takes the code when it was 0 and no other bit of
`FSR` changes; nothing else changes. -/
structure Raises (c : FaultCause) (s t : State) : Prop where
  response : t.rsp = some { fault := c.code, dout := 0#64 }
  first : fcode s.fsr = 0#4 → fcode t.fsr = c.code
  sticks : fcode s.fsr ≠ 0#4 → fcode t.fsr = fcode s.fsr
  otherBits : ∀ k, 4 ≤ k → t.fsr.getLsbD k = s.fsr.getLsbD k
  ports : KeepsPorts s t
  xs : KeepsX [] s t
  fs : KeepsF [] s t
  text : KeepsText s t
  decimal : KeepsDecimal s t

/-! ## Which commands write what (R26, R28, R31) -/

/-- The integer registers a command writes, on any of its operands. -/
def xDestinations : Instr → List XReg
  | .ldis a | .ldiu a | .setraw a | .mov a _ | .clr a | .add a _ | .sub a _ | .mul a _ | .div a _ | .rem a _ | .neg a _
  | .not a _ | .inc a | .dec a | .shl a | .shr a | .setb a | .rstb a | .parse a => [a]
  | .divrem a _ c => [a, c]
  | _ => []

/-- The bfloat registers a command writes. -/
def fDestinations : Instr → List FReg
  | .fenc a | .fsetz a | .fsetinf a | .fsetnan a | .fmvx a => [a]
  | _ => []

/-- `CLEN` is "written by `CBRST CBPUT TOSTR TOBIN`" (R31). -/
def writesText : Instr → Bool
  | .cbrst | .cbput | .tostr _ | .tobin _ => true
  | _ => false

/-- `DLEN` and `DSIGN` are "written by `B2D TOSTR`" (R31). -/
def writesDecimal : Instr → Bool
  | .b2d _ | .tostr _ => true
  | _ => false

/-- The faults a command may raise after decoding (R250). -/
def mayRaise : Instr → FaultCause → Bool
  | .div _ _, .divideByZero | .rem _ _, .divideByZero | .divrem _ _ _, .divideByZero => true
  | .setb _, .indexOutOfBounds | .rstb _, .indexOutOfBounds | .tstb _, .indexOutOfBounds => true
  | .blkr _, .indexOutOfBounds | .cbget, .indexOutOfBounds | .dmget, .indexOutOfBounds => true
  | .fadd _ _, .unsupported | .fsub _ _, .unsupported | .fmul _ _, .unsupported | .fdiv _ _, .unsupported => true
  | .cbput, .bufferOverflow => true
  | .csrr, .illegalCommand => true
  | _, _ => false

/-! ## Numbers, numerals and texts -/

/-- `(-1)^s`. -/
def signFactor (negative : Bool) : ℚ := if negative then -1 else 1

/-- The value of a pattern of a numeric class (R204). -/
def bfValue (c : Config) (p : Nat) : ℚ :=
  if bfExp c p = 0 then signFactor (bfSign c p) * (2 : ℚ) ^ eminNormal c * (bfFrac c p / 2 ^ c.fracBits)
  else signFactor (bfSign c p) * (2 : ℚ) ^ ((bfExp c p : Int) - bias c) * (1 + bfFrac c p / 2 ^ c.fracBits)

/-- Zero, Subnormal and Normal are the numeric classes (R204). -/
def isNumeric (c : Config) (p : Nat) : Bool :=
  bfClass c p == .zero || bfClass c p == .subnormal || bfClass c p == .normal

/-- The value of a finite binary64 pattern (R12). -/
def dblValue (d : BitVec 64) : ℚ :=
  if dblExp d = 0 then signFactor (dblSign d) * (2 : ℚ) ^ (-1022 : Int) * (dblFrac d / 2 ^ 52)
  else signFactor (dblSign d) * (2 : ℚ) ^ ((dblExp d : Int) - 1023) * (1 + dblFrac d / 2 ^ 52)

/-- The value of a run of decimal digit characters. -/
def decNumeral (body : List Byte) : Nat := body.foldl (fun v c => 10 * v + (c.toNat - 0x30)) 0

/-- The value of a run of hexadecimal digit characters, apostrophes ignored (R184, R185). -/
def hexNumeral (body : List Byte) : Nat :=
  body.foldl (fun v c => if c = charApostrophe then v else 16 * v + nibble c) 0

/-- The shortest decimal numeral of an integer, minus sign first (R177). -/
def decimalNumeral (v : Int) : List Byte :=
  (if v < 0 then [0x2D#8] else []) ++ (Nat.toDigits 10 v.natAbs).map fun ch => BitVec.ofNat 8 ch.toNat

/-- The text is `0x` or `0X` and then `body`, a non-empty run of `H` (R181, HEX). -/
def IsHexText (text body : List Byte) : Prop :=
  (text = 0x30#8 :: 0x78#8 :: body ∨ text = 0x30#8 :: 0x58#8 :: body) ∧ body ≠ [] ∧ ∀ c ∈ body, isHexChar c = true

/-- The text is an optional minus and then `body`, a non-empty run of digits (R181, DEC). -/
def IsDecText (minus : Bool) (text body : List Byte) : Prop :=
  text = (if minus then [0x2D#8] else []) ++ body ∧ body ≠ [] ∧ ∀ c ∈ body, isDecChar c = true

end Sys2Proof.Machine
end

