-- ==== Sys2Proof/Certificates/Slice0/Obligations.lean ====
section
/-!
DEFINITION. The statements for the provers. Each docstring says which rules of spec/ it formalises; OBLIGATIONS.json lists them.
-/

open Sys2Proof Sys2Proof.Machine

/-! ## Reset, the step, decoding -/

/-- R40: every piece of state after reset, in every configuration. -/
def Obligations.ResetStateHasTheSpecValues : Prop :=
  ∀ (c : Config),
    (∀ r, (State.resetWith c).xpat r = 0) ∧ (∀ r, (State.resetWith c).fpat r = 0) ∧
    (State.resetWith c).clen = 0 ∧ (State.resetWith c).dlen = 1 ∧ memRead (State.resetWith c).dm 0 = 0#4 ∧
    (State.resetWith c).dsign = false ∧ (State.resetWith c).fsr = 0#64 ∧
    (State.resetWith c).csr 0 = some (BitVec.ofNat 64 c.n) ∧ (State.resetWith c).csr 1 = some 8#64 ∧
    (State.resetWith c).csr 2 = some (BitVec.ofNat 64 c.nf) ∧ (State.resetWith c).csr 3 = some (BitVec.ofNat 64 c.e)

/-- The invariant holds after reset, in every configuration in range and in the one of `State.reset` (log 2). -/
def Obligations.InvariantHoldsAtReset : Prop :=
  (∀ (c : Config), c.InRange → (State.resetWith c).Inv) ∧ State.reset.Inv

/-- Every step from a state with the invariant that answers a next state answers one with the invariant. -/
def Obligations.EveryStepKeepsTheInvariant : Prop :=
  ∀ (s t : State), s.Inv → Sys2Proof.Machine.step s = .next t → t.Inv

/-- A step at which the host presents the word of a command is `exec` of that command, with the move taken off the host's list
and the operand on `cmd_din`; what `accept` changes is stated too. -/
def Obligations.StepRunsTheDecodedCommand : Prop :=
  ∀ (s : State) (cw : CmdWord) (din : Native) (rest : List HostMove) (i : Instr), s.cfg.InRange →
    s.pending = .present { cw := cw, din := din } :: rest → decode cw = .ok i →
    Sys2Proof.Machine.step s = Sys2Proof.Machine.exec i (s.accept rest din) ∧
    s.accept rest din = { s with pending := rest, din := din }

/-- R251, R256: a word that decodes to no command takes the fault `IllegalCommand`, before any state is read. -/
def Obligations.UndecodableWordRaisesIllegalCommand : Prop :=
  ∀ (s : State) (cw : CmdWord) (din : Native) (rest : List HostMove) (e : DecodeError), s.cfg.InRange →
    s.pending = .present { cw := cw, din := din } :: rest → decode cw = .error e →
    ∃ t, Sys2Proof.Machine.step s = .next t ∧ Raises .illegalCommand (s.accept rest din) t

/-- R280: the host asserts reset between commands. That the moves still to come stay and the ports are cleared is the model's
choice (log 4, 6, 7), and so is that reset empties `CB` and `DM`, whose cells but `DM[0]` R40 leaves unspecified (log 8). With
nothing presented nothing changes (the model's choice, log 5). An out-of-range configuration is refused
(log 3). -/
def Obligations.StepWithoutACommand : Prop :=
  ∀ (s : State),
    (∀ rest, s.cfg.InRange → s.pending = .reset :: rest →
      Sys2Proof.Machine.step s = .next { State.resetWith s.cfg with pending := rest }) ∧
    (s.cfg.InRange → s.pending = [] → Sys2Proof.Machine.step s = .next s) ∧
    (¬s.cfg.InRange → Sys2Proof.Machine.step s = .refused .configurationOutOfRange)

/-- Decoding the encoding of a well-formed command gives the command, with every register field at every value. -/
def Obligations.DecodeOfEncodeIsTheCommand : Prop :=
  ∀ (i : Instr), i.wellFormed = true → decode (encode i) = .ok i

/-- A word that decodes to a command is that command's encoding, so no two words are one command, and the command is
well-formed. -/
def Obligations.EncodeOfDecodeIsTheWord : Prop :=
  ∀ (w : CmdWord) (i : Instr), decode w = .ok i → encode i = w ∧ i.wellFormed = true

/-- R72: the decoder accepts exactly the words that a row of the opcode table selects, with the one further check of
`DIVREM`; every other word is rejected, and at a step raises `IllegalCommand`. -/
def Obligations.DecoderAcceptsExactlyTheTableRows : Prop :=
  ∀ (w : CmdWord),
    ((∃ i, decode w = .ok i) ↔
      (∃ r ∈ opTable, r.selects w = true) ∧ ¬(w.extractLsb' 0 8 = 0x15#8 ∧ w.extractLsb' 8 3 = w.extractLsb' 14 3)) ∧
    ((∃ i, decode w = .ok i) ∨ ∃ e, decode w = .error e ∧ ∀ (s : State) (din : Native) (rest : List HostMove),
      s.cfg.InRange → s.pending = .present { cw := w, din := din } :: rest →
      ∃ t, Sys2Proof.Machine.step s = .next t ∧ Raises .illegalCommand (s.accept rest din) t)

/-- No two rows of the opcode table select one word (R71, R73). -/
def Obligations.TableRowsDoNotOverlap : Prop :=
  opTable.Pairwise fun r q => ∀ w, ¬(r.selects w = true ∧ q.selects w = true)

/-- Words written out bit by bit from R70, R71 and R73 decode to the commands they stand for. -/
def Obligations.SampleWordsDecodeRight : Prop :=
  decode 0b000000000000000_000_000_010_00000001#32 = .ok (.ldis 2) ∧
  decode 0b000000000000000_000_001_000_00010000#32 = .ok (.add 0 1) ∧
  decode 0b000000000000000_110_111_101_00010101#32 = .ok (.divrem 5 7 6) ∧
  decode 0b000000000000000_000_000_011_00100001#32 = .ok (.shr 3) ∧
  decode 0b000000000000000_000_100_001_00110010#32 = .ok (.clt 1 4) ∧
  decode 0b000000000000000_000_000_011_01010011#32 = .ok (.parse 3) ∧
  decode 0b000000000000000_000_000_000_01010101#32 = .ok .cbput ∧
  decode 0b000000000000000_000_000_111_01100000#32 = .ok (.fenc 7) ∧
  decode 0b000000000000000_000_010_001_01101000#32 = .ok (.fadd 1 2) ∧
  decode 0b000000000000000_000_000_000_01110000#32 = .ok .csrr ∧
  decode 0b000000000000001_000_001_000_00010000#32 = .error .reservedFieldSet ∧
  decode 0b000000000000000_000_000_000_00000000#32 = .error .reservedOpcode ∧
  decode 0b000000000000000_001_000_000_00010000#32 = .error .unusedFieldSet ∧
  decode 0b000000000000000_101_001_101_00010101#32 = .error .divremSameDestination

/-! ## Rules about the whole machine -/

/-- R284: from a state with the invariant, every presented command, legal or not, produces its response, and the unit is ready
for the next move. -/
def Obligations.EveryPresentedCommandIsAnswered : Prop :=
  ∀ (s : State) (cw : CmdWord) (din : Native) (rest : List HostMove), s.Inv →
    s.pending = .present { cw := cw, din := din } :: rest →
    ∃ t r, Sys2Proof.Machine.step s = .next t ∧ t.rsp = some r ∧ t.pending = rest

/-- R250, R256: a command whose response carries a fault code raised one of the faults its row of R250 lists, and that fault
changed nothing but `FSR`. Codes 6 to 15 are never produced. -/
def Obligations.FaultingCommandChangesOnlyTheFaultStatus : Prop :=
  ∀ (i : Instr) (s t : State) (r : Response), Sys2Proof.Machine.exec i s = .next t → t.rsp = some r → r.fault ≠ 0#4 →
    ∃ c, mayRaise i c = true ∧ r.fault = c.code ∧ Raises c s t

/-- R260: no command's effect or response depends on `FSR`, but for `CSRR` of `FSR` itself; a run of the command with any
other `FSR` gives the same state in all but `FSR`. -/
def Obligations.FaultStatusNeverGatesExecution : Prop :=
  ∀ (i : Instr) (s t : State) (v : BitVec 64), (i = .csrr → s.din ≠ 4#64) → Sys2Proof.Machine.exec i s = .next t →
    ∃ t', Sys2Proof.Machine.exec i { s with fsr := v } = .next t' ∧ { t' with fsr := 0#64 } = { t with fsr := 0#64 }

/-- R31, R33: `FSR` changes by a fault (which sets `fcode`), by a failed `PARSE` (which sets `pf`) and by `CLRF` (which clears
it), and by nothing else a command does. -/
def Obligations.FaultStatusHasThreeWriters : Prop :=
  ∀ (i : Instr) (s t : State), Sys2Proof.Machine.exec i s = .next t →
    t.fsr = s.fsr ∨ (i = .clrf ∧ t.fsr = 0#64) ∨
    ((∃ a, i = .parse a) ∧ t.rsp = completedWith 0#64 ∧ pf t.fsr = true ∧
      ∀ k, k ≠ 8 → t.fsr.getLsbD k = s.fsr.getLsbD k) ∨
    (∃ c, mayRaise i c = true ∧ Raises c s t)

/-- R280: "Reset is the only way `FSR.fcode` changes back to 0 besides `CLRF`"; until one of the two, a recorded code stays
(R33). -/
def Obligations.FaultCodeStaysUntilClearedOrReset : Prop :=
  ∀ (s t : State), Sys2Proof.Machine.step s = .next t → fcode s.fsr ≠ 0#4 → fcode t.fsr ≠ fcode s.fsr →
    fcode t.fsr = 0#4 ∧ ((∃ rest, s.pending = .reset :: rest) ∨
      ∃ din rest, s.pending = .present { cw := 0x71#32, din := din } :: rest)

/-- R32: no step, reset included, changes a parameter or what a `CFG_*` register reads. -/
def Obligations.ConfigurationNeverChanges : Prop :=
  ∀ (s t : State), Sys2Proof.Machine.step s = .next t →
    t.cfg = s.cfg ∧ t.csr 0 = s.csr 0 ∧ t.csr 1 = s.csr 1 ∧ t.csr 2 = s.csr 2 ∧ t.csr 3 = s.csr 3

/-- R26, R28, R31: only the commands these rules list write an integer register, a bfloat register, the text or the
Decimal. -/
def Obligations.OnlyTheListedCommandsWriteEachState : Prop :=
  ∀ (i : Instr) (s t : State), Sys2Proof.Machine.exec i s = .next t →
    KeepsPorts s t ∧ KeepsX (xDestinations i) s t ∧ KeepsF (fDestinations i) s t ∧
    (writesText i = false → KeepsText s t) ∧ (writesDecimal i = false → KeepsDecimal s t)

/-! ## Integer construction, conversion and arithmetic -/

/-- R101: `LDIS`. -/
def Obligations.LoadSignedReducesModTwoToTheN : Prop :=
  ∀ (a : XReg) (s : State), decode (wordA 0x01 a) = .ok (.ldis a) ∧
    ∃ t, Sys2Proof.Machine.exec (.ldis a) s = .next t ∧ t.rsp = completedWith 0#64 ∧
      (t.xpat a : Int) = s.din.toInt % 2 ^ s.cfg.n ∧ OnlyX [a] s t

/-- R102, R103: `LDIU` and `SETRAW`. -/
def Obligations.LoadUnsignedAndRawReduceModTwoToTheN : Prop :=
  ∀ (a : XReg) (s : State), decode (wordA 0x02 a) = .ok (.ldiu a) ∧ decode (wordA 0x03 a) = .ok (.setraw a) ∧
    ∃ t, Sys2Proof.Machine.exec (.ldiu a) s = .next t ∧ Sys2Proof.Machine.exec (.setraw a) s = .next t ∧
      t.rsp = completedWith 0#64 ∧ t.xpat a = s.din.toNat % 2 ^ s.cfg.n ∧ OnlyX [a] s t

/-- R104, R105: `MOV` and `CLR`. -/
def Obligations.MoveCopiesAndClearZeroes : Prop :=
  ∀ (a b : XReg) (s : State), decode (wordAB 0x04 a b) = .ok (.mov a b) ∧ decode (wordA 0x05 a) = .ok (.clr a) ∧
    (∃ t, Sys2Proof.Machine.exec (.mov a b) s = .next t ∧ t.rsp = completedWith 0#64 ∧
      t.xpat a = (s.xreg b).toNat ∧ OnlyX [a] s t) ∧
    (∃ t, Sys2Proof.Machine.exec (.clr a) s = .next t ∧ t.rsp = completedWith 0#64 ∧ t.xpat a = 0 ∧ OnlyX [a] s t)

/-- R106, R107: `STIS` and `STIU`. -/
def Obligations.StoreNativeExtendsOrTruncates : Prop :=
  ∀ (a : XReg) (s : State), decode (wordA 0x06 a) = .ok (.stis a) ∧ decode (wordA 0x07 a) = .ok (.stiu a) ∧
    (∃ t d, Sys2Proof.Machine.exec (.stis a) s = .next t ∧ t.rsp = completedWith d ∧ OnlyResponse s t ∧
      (64 ≤ s.cfg.n → d.toNat = (s.xreg a).toNat % 2 ^ 64) ∧ (s.cfg.n ≤ 64 → d.toInt = (s.xreg a).toInt)) ∧
    (∃ t d, Sys2Proof.Machine.exec (.stiu a) s = .next t ∧ t.rsp = completedWith d ∧ OnlyResponse s t ∧
      (64 ≤ s.cfg.n → d.toNat = (s.xreg a).toNat % 2 ^ 64) ∧ (s.cfg.n ≤ 64 → d.toNat = (s.xreg a).toNat))

/-- R108: `I2D` gives the binary64 nearest to the signed reading of the `STIS` result, ties to even: within half a unit of the
last place, in the binade of the integer or at its upper end, with an even fraction on a tie; exact up to `2^53`. -/
def Obligations.IntegerToDoubleRoundsToNearestEven : Prop :=
  ∀ (a : XReg) (s : State), decode (wordA 0x08 a) = .ok (.i2d a) ∧
    ∃ t d v, Sys2Proof.Machine.exec (.i2d a) s = .next t ∧ t.rsp = completedWith d ∧ OnlyResponse s t ∧
      v = (if 64 ≤ s.cfg.n then ((s.xreg a).setWidth 64).toInt else (s.xreg a).toInt) ∧
      (v = 0 → d = 0#64) ∧
      (v ≠ 0 → dblSign d = decide (v < 0) ∧ dblExp d ≠ 0 ∧ dblExp d ≠ 0x7FF ∧
        (2 : ℚ) ^ Nat.log2 v.natAbs ≤ |dblValue d| ∧
        |dblValue d - v| * 2 ^ 53 ≤ (2 : ℚ) ^ Nat.log2 v.natAbs ∧
        (|dblValue d - v| * 2 ^ 53 = (2 : ℚ) ^ Nat.log2 v.natAbs → dblFrac d % 2 = 0) ∧
        (v.natAbs ≤ 2 ^ 53 → dblValue d = v))

/-- R109: `ADD`, in both readings. -/
def Obligations.AddWrapsModTwoToTheN : Prop :=
  ∀ (a b : XReg) (s : State), decode (wordAB 0x10 a b) = .ok (.add a b) ∧
    ∃ t, Sys2Proof.Machine.exec (.add a b) s = .next t ∧ t.rsp = completedWith 0#64 ∧
      t.xpat a = ((s.xreg a).toNat + (s.xreg b).toNat) % 2 ^ s.cfg.n ∧
      (t.xreg a).toInt = ((s.xreg a).toInt + (s.xreg b).toInt).bmod (2 ^ s.cfg.n) ∧ OnlyX [a] s t

/-- R110: the block adder gives the blocks of the sum of R109. -/
def Obligations.BlockAdderEqualsTheAdder : Prop :=
  ∀ (n : Nat) (a b : BitVec n),
    addBlocks a b = blocksOf (addWord a b) ∧ blocksValue (addBlocks a b) = (a.toNat + b.toNat) % 2 ^ n

/-- R111, R113: `SUB` and `NEG`. -/
def Obligations.SubtractAndNegateWrap : Prop :=
  ∀ (a b : XReg) (s : State), decode (wordAB 0x11 a b) = .ok (.sub a b) ∧ decode (wordAB 0x16 a b) = .ok (.neg a b) ∧
    (∃ t, Sys2Proof.Machine.exec (.sub a b) s = .next t ∧ t.rsp = completedWith 0#64 ∧
      (t.xpat a : Int) = ((s.xreg a).toNat - (s.xreg b).toNat : Int) % 2 ^ s.cfg.n ∧ OnlyX [a] s t) ∧
    (∃ t, Sys2Proof.Machine.exec (.neg a b) s = .next t ∧ t.rsp = completedWith 0#64 ∧
      t.xpat a = (2 ^ s.cfg.n - (s.xreg b).toNat) % 2 ^ s.cfg.n ∧ OnlyX [a] s t)

/-- R114, R115, R116: `NOT`, `INC` and `DEC`. -/
def Obligations.ComplementIncrementDecrement : Prop :=
  ∀ (a b : XReg) (s : State), decode (wordAB 0x17 a b) = .ok (.not a b) ∧ decode (wordA 0x18 a) = .ok (.inc a) ∧
    decode (wordA 0x19 a) = .ok (.dec a) ∧
    (∃ t, Sys2Proof.Machine.exec (.not a b) s = .next t ∧ t.rsp = completedWith 0#64 ∧
      t.xpat a = 2 ^ s.cfg.n - 1 - (s.xreg b).toNat ∧ OnlyX [a] s t) ∧
    (∃ t, Sys2Proof.Machine.exec (.inc a) s = .next t ∧ t.rsp = completedWith 0#64 ∧
      t.xpat a = ((s.xreg a).toNat + 1) % 2 ^ s.cfg.n ∧ OnlyX [a] s t) ∧
    (∃ t, Sys2Proof.Machine.exec (.dec a) s = .next t ∧ t.rsp = completedWith 0#64 ∧
      t.xpat a = ((s.xreg a).toNat + (2 ^ s.cfg.n - 1)) % 2 ^ s.cfg.n ∧ OnlyX [a] s t)

/-- R112: the shift-and-add loop of `MUL` gives the low `N` bits of the product. -/
def Obligations.MultiplyGivesTheLowProduct : Prop :=
  ∀ (a b : XReg) (s : State), decode (wordAB 0x12 a b) = .ok (.mul a b) ∧
    ∃ t, Sys2Proof.Machine.exec (.mul a b) s = .next t ∧ t.rsp = completedWith 0#64 ∧
      t.xpat a = (s.xreg a).toNat * (s.xreg b).toNat % 2 ^ s.cfg.n ∧
      (t.xreg a).toInt = ((s.xreg a).toInt * (s.xreg b).toInt).bmod (2 ^ s.cfg.n) ∧ OnlyX [a] s t

/-- R111, doc00 §8: `(a + b) - b == a`, as the two commands one after the other. -/
def Obligations.SubtractUndoesAdd : Prop :=
  ∀ (a b : XReg) (s : State), a ≠ b → s.xpat a < 2 ^ s.cfg.n →
    ∃ t u, Sys2Proof.Machine.exec (.add a b) s = .next t ∧ Sys2Proof.Machine.exec (.sub a b) t = .next u ∧
      u.xpat a = s.xpat a ∧ OnlyX [] s u

/-! ## Shifts, compares, bits -/

/-- R131, R132: `SHL` and `SHR` by any signed amount, in one formula each way, the saturating amounts included. -/
def Obligations.ShiftsMultiplyOrFloorDivide : Prop :=
  ∀ (a : XReg) (s : State), decode (wordA 0x20 a) = .ok (.shl a) ∧ decode (wordA 0x21 a) = .ok (.shr a) ∧
    (∃ t, Sys2Proof.Machine.exec (.shl a) s = .next t ∧ t.rsp = completedWith 0#64 ∧ OnlyX [a] s t ∧
      (0 ≤ s.din.toInt → t.xpat a = (s.xreg a).toNat * 2 ^ s.din.toInt.toNat % 2 ^ s.cfg.n) ∧
      (s.din.toInt < 0 → (t.xpat a : Int) = (s.xreg a).toInt / 2 ^ (-s.din.toInt).toNat % 2 ^ s.cfg.n)) ∧
    (∃ t, Sys2Proof.Machine.exec (.shr a) s = .next t ∧ t.rsp = completedWith 0#64 ∧ OnlyX [a] s t ∧
      (0 ≤ s.din.toInt → (t.xpat a : Int) = (s.xreg a).toInt / 2 ^ s.din.toInt.toNat % 2 ^ s.cfg.n) ∧
      (s.din.toInt < 0 → t.xpat a = (s.xreg a).toNat * 2 ^ (-s.din.toInt).toNat % 2 ^ s.cfg.n))

/-- R133: a shift by `j` is `j` single-bit shifts, saturated results included. -/
def Obligations.ShiftsAreIteratedSingleBitShifts : Prop :=
  ∀ (n : Nat) (v : BitVec n) (j : Nat), iterate shlOne j v = shlWord v j ∧ iterate sraOne j v = sraWord v j

/-- R135 to R140: the six compares. -/
def Obligations.ComparesReturnTheSignedRelation : Prop :=
  ∀ (a b : XReg) (s : State),
    (decode (wordAB 0x30 a b) = .ok (.ceq a b) ∧ decode (wordAB 0x31 a b) = .ok (.cne a b) ∧
      decode (wordAB 0x32 a b) = .ok (.clt a b) ∧ decode (wordAB 0x33 a b) = .ok (.cgt a b) ∧
      decode (wordAB 0x34 a b) = .ok (.cle a b) ∧ decode (wordAB 0x35 a b) = .ok (.cge a b)) ∧
    (∃ t, Sys2Proof.Machine.exec (.ceq a b) s = .next t ∧ OnlyResponse s t ∧
      t.rsp = completedWith (if (s.xreg a).toNat = (s.xreg b).toNat then 1#64 else 0#64)) ∧
    (∃ t, Sys2Proof.Machine.exec (.cne a b) s = .next t ∧ OnlyResponse s t ∧
      t.rsp = completedWith (if (s.xreg a).toNat ≠ (s.xreg b).toNat then 1#64 else 0#64)) ∧
    (∃ t, Sys2Proof.Machine.exec (.clt a b) s = .next t ∧ OnlyResponse s t ∧
      t.rsp = completedWith (if (s.xreg a).toInt < (s.xreg b).toInt then 1#64 else 0#64)) ∧
    (∃ t, Sys2Proof.Machine.exec (.cgt a b) s = .next t ∧ OnlyResponse s t ∧
      t.rsp = completedWith (if (s.xreg a).toInt > (s.xreg b).toInt then 1#64 else 0#64)) ∧
    (∃ t, Sys2Proof.Machine.exec (.cle a b) s = .next t ∧ OnlyResponse s t ∧
      t.rsp = completedWith (if (s.xreg a).toInt ≤ (s.xreg b).toInt then 1#64 else 0#64)) ∧
    (∃ t, Sys2Proof.Machine.exec (.cge a b) s = .next t ∧ OnlyResponse s t ∧
      t.rsp = completedWith (if (s.xreg a).toInt ≥ (s.xreg b).toInt then 1#64 else 0#64))

/-- R134: doc00's bit-by-bit comparison gives the signed order, and equality of all blocks is equality. -/
def Obligations.BitwiseComparatorEqualsTheSignedOrder : Prop :=
  ∀ (n : Nat) (a b : BitVec n),
    (lessBits a b = true ↔ a.toInt < b.toInt) ∧ lessBits a b = lessWord a b ∧ (blocksOf a = blocksOf b ↔ a = b)

/-- R141: `MSB`. -/
def Obligations.MsbFindsTheHighestSetBit : Prop :=
  ∀ (a : XReg) (s : State), decode (wordA 0x38 a) = .ok (.msb a) ∧ (s.cfg.n < 2 ^ 63 →
    ∃ t d, Sys2Proof.Machine.exec (.msb a) s = .next t ∧ t.rsp = completedWith d ∧ OnlyResponse s t ∧
      ((s.xreg a).toNat = 0 → d = 0xFFFFFFFFFFFFFFFF#64) ∧
      ∀ k, (s.xreg a).getLsbD k = true → (∀ j, k < j → (s.xreg a).getLsbD j = false) → d.toInt = k)

/-- R150, R151, R153, R154: `SETB`, `RSTB` and `TSTB`, in range and out of range. -/
def Obligations.BitAccessSetsClearsTestsOrFaults : Prop :=
  ∀ (a : XReg) (s : State), decode (wordA 0x40 a) = .ok (.setb a) ∧ decode (wordA 0x41 a) = .ok (.rstb a) ∧
    decode (wordA 0x42 a) = .ok (.tstb a) ∧
    (s.din.toNat < s.cfg.n →
      (∃ t, Sys2Proof.Machine.exec (.setb a) s = .next t ∧ t.rsp = completedWith 0#64 ∧ OnlyX [a] s t ∧
        ∀ j, (t.xpat a).testBit j = ((s.xreg a).getLsbD j || decide (j = s.din.toNat))) ∧
      (∃ t, Sys2Proof.Machine.exec (.rstb a) s = .next t ∧ t.rsp = completedWith 0#64 ∧ OnlyX [a] s t ∧
        ∀ j, (t.xpat a).testBit j = ((s.xreg a).getLsbD j && decide (j ≠ s.din.toNat))) ∧
      (∃ t, Sys2Proof.Machine.exec (.tstb a) s = .next t ∧ OnlyResponse s t ∧
        t.rsp = completedWith (if (s.xreg a).getLsbD s.din.toNat then 1#64 else 0#64))) ∧
    (s.cfg.n ≤ s.din.toNat →
      (∃ t, Sys2Proof.Machine.exec (.setb a) s = .next t ∧ Raises .indexOutOfBounds s t) ∧
      (∃ t, Sys2Proof.Machine.exec (.rstb a) s = .next t ∧ Raises .indexOutOfBounds s t) ∧
      (∃ t, Sys2Proof.Machine.exec (.tstb a) s = .next t ∧ Raises .indexOutOfBounds s t))

/-- R152, R154: `BLKR`, in range and out of range; the bits above `N` of the last block read 0. -/
def Obligations.BlockReadGivesTheByteOrFaults : Prop :=
  ∀ (a : XReg) (s : State), decode (wordA 0x43 a) = .ok (.blkr a) ∧
    (s.din.toNat < (s.cfg.n + 7) / 8 →
      ∃ t d, Sys2Proof.Machine.exec (.blkr a) s = .next t ∧ t.rsp = completedWith d ∧ OnlyResponse s t ∧
        d.toNat = (s.xreg a).toNat / 256 ^ s.din.toNat % 256) ∧
    ((s.cfg.n + 7) / 8 ≤ s.din.toNat →
      ∃ t, Sys2Proof.Machine.exec (.blkr a) s = .next t ∧ Raises .indexOutOfBounds s t)

/-! ## Division -/

/-- R161, R162, R163 with R164: for a non-zero divisor, the restoring division engine gives quotient and remainder of the
division that truncates toward zero, reduced to `N` bits. -/
def Obligations.DivisionTruncatesTowardZero : Prop :=
  ∀ (a b c : XReg) (s : State), decode (wordAB 0x13 a b) = .ok (.div a b) ∧ decode (wordAB 0x14 a b) = .ok (.rem a b) ∧
    (a ≠ c → decode (wordABC 0x15 a b c) = .ok (.divrem a b c)) ∧
    (a = c → decode (wordABC 0x15 a b c) = .error .divremSameDestination) ∧
    ((s.xreg b).toNat ≠ 0 →
      (∃ t, Sys2Proof.Machine.exec (.div a b) s = .next t ∧ t.rsp = completedWith 0#64 ∧ OnlyX [a] s t ∧
        (t.xpat a : Int) = (s.xreg a).toInt.tdiv (s.xreg b).toInt % 2 ^ s.cfg.n) ∧
      (∃ t, Sys2Proof.Machine.exec (.rem a b) s = .next t ∧ t.rsp = completedWith 0#64 ∧ OnlyX [a] s t ∧
        (t.xpat a : Int) = (s.xreg a).toInt.tmod (s.xreg b).toInt % 2 ^ s.cfg.n) ∧
      (a ≠ c → ∃ t, Sys2Proof.Machine.exec (.divrem a b c) s = .next t ∧ t.rsp = completedWith 0#64 ∧ OnlyX [a, c] s t ∧
        (t.xpat a : Int) = (s.xreg a).toInt.tdiv (s.xreg b).toInt % 2 ^ s.cfg.n ∧
        (t.xpat c : Int) = (s.xreg a).toInt.tmod (s.xreg b).toInt % 2 ^ s.cfg.n))

/-- R165: a zero divisor raises `DivideByZero`, whatever the dividend, and nothing is written. -/
def Obligations.ZeroDivisorRaisesDivideByZero : Prop :=
  ∀ (a b c : XReg) (s : State), (s.xreg b).toNat = 0 →
    (∃ t, Sys2Proof.Machine.exec (.div a b) s = .next t ∧ Raises .divideByZero s t) ∧
    (∃ t, Sys2Proof.Machine.exec (.rem a b) s = .next t ∧ Raises .divideByZero s t) ∧
    (∃ t, Sys2Proof.Machine.exec (.divrem a b c) s = .next t ∧ Raises .divideByZero s t)

/-- doc00 §8 with R164: the division identity modulo `2^N`, the remainder smaller than the divisor and with the dividend's
sign. -/
def Obligations.DivisionIdentityHolds : Prop :=
  ∀ (n : Nat) (a b : BitVec n), b ≠ 0#n →
    addWord (mulWord (divideWord a b).1 b) (divideWord a b).2 = a ∧
    |(divideWord a b).2.toInt| < |b.toInt| ∧
    ((divideWord a b).2.toInt = 0 ∨ ((divideWord a b).2.toInt < 0 ↔ a.toInt < 0))

/-! ## Decimal and text -/

/-- R171 to R174 on normalised Decimals: the digit operations compute the values and keep the normal form. -/
def Obligations.DecimalArithmeticIsExactAndNormalised : Prop :=
  (∀ (x y : Decimal), x.normalised = true → y.normalised = true →
    ((decAdd x y).value = x.value + y.value ∧ (decAdd x y).normalised = true) ∧
    ((decSub x y).value = x.value - y.value ∧ (decSub x y).normalised = true) ∧
    ((decMul x y).value = x.value * y.value ∧ (decMul x y).normalised = true)) ∧
  ∀ (ds : List Nat), ds ≠ [] →
    digitsValue (unpad ds) = digitsValue ds ∧ (unpad ds).length ≤ ds.length ∧ unpad ds ≠ [] ∧
    ((unpad ds).length = 1 ∨ (unpad ds).getLast? ≠ some 0)

/-- R175, R176: `B2D` leaves the normalised Decimal of the signed value, in at most `N` digits, from a digit memory in
canonical form (which every step keeps, `EveryStepKeepsTheInvariant`). That the cells from the new `DLEN` on are as before is
the model's choice (log 8): the spec leaves them unspecified (U2). -/
def Obligations.BinaryToDecimalIsExact : Prop :=
  ∀ (a : XReg) (s : State), decode (wordA 0x50 a) = .ok (.b2d a) ∧ (1 ≤ s.cfg.n → Memory.wf s.dm = true →
    ∃ t, Sys2Proof.Machine.exec (.b2d a) s = .next t ∧ t.rsp = completedWith 0#64 ∧
      t.decimal.value = (s.xreg a).toInt ∧ t.decimal.normalised = true ∧ t.dlen ≤ s.cfg.n ∧ OnlyDecimal s t)

/-- R177: `TOSTR` leaves the shortest decimal numeral of the signed value in `CB` and its Decimal in `DM`, from a
digit memory in canonical form. That the cells from the new `CLEN` and `DLEN` on are as before is the model's choice (log 8): the
spec leaves them unspecified (U2). -/
def Obligations.ToStringWritesTheShortestNumeral : Prop :=
  ∀ (a : XReg) (s : State), decode (wordA 0x51 a) = .ok (.tostr a) ∧ (s.cfg.InRange → Memory.wf s.dm = true →
    ∃ t, Sys2Proof.Machine.exec (.tostr a) s = .next t ∧ t.rsp = completedWith 0#64 ∧
      t.text = some (decimalNumeral (s.xreg a).toInt) ∧ t.clen = t.dlen + t.dsign.toNat ∧
      t.decimal.value = (s.xreg a).toInt ∧ t.decimal.normalised = true ∧ OnlyTextAndDecimal s t)

/-- R178: `TOBIN` leaves `N` characters, most significant bit first; read as a binary numeral they are the register.
That the cells from the new `CLEN` on are as before is the model's choice (log 8): the spec leaves them unspecified (U2). -/
def Obligations.ToBinaryWritesEveryBit : Prop :=
  ∀ (a : XReg) (s : State), decode (wordA 0x52 a) = .ok (.tobin a) ∧ (s.cfg.n ≤ s.cfg.cbSize →
    ∃ t text, Sys2Proof.Machine.exec (.tobin a) s = .next t ∧ t.rsp = completedWith 0#64 ∧ t.clen = s.cfg.n ∧
      t.text = some text ∧ text.length = s.cfg.n ∧
      (∀ j, j < s.cfg.n →
        memRead (w := 8) t.cb j = if (s.xreg a).getLsbD (s.cfg.n - 1 - j) then 0x31#8 else 0x30#8) ∧
      text.foldl (fun v c => 2 * v + (c.toNat - 0x30)) 0 = (s.xreg a).toNat ∧ OnlyText (· < t.clen) s t)

/-- R180 with R184 and R185: `PARSE` of a hexadecimal text. -/
def Obligations.ParseReadsHexadecimalText : Prop :=
  ∀ (a : XReg) (s : State) (text body : List Byte), s.text = some text → IsHexText text body →
    ∃ t, Sys2Proof.Machine.exec (.parse a) s = .next t ∧ t.rsp = completedWith 1#64 ∧
      t.xpat a = hexNumeral body % 2 ^ s.cfg.n ∧ OnlyX [a] s t

/-- R180 with R182, R183 and R186: `PARSE` of a decimal text, leading zeros being digits like any other. -/
def Obligations.ParseReadsDecimalText : Prop :=
  ∀ (a : XReg) (s : State) (minus : Bool) (text body : List Byte), s.text = some text → IsDecText minus text body →
    ∃ t, Sys2Proof.Machine.exec (.parse a) s = .next t ∧ t.rsp = completedWith 1#64 ∧
      (t.xpat a : Int) = (if minus then -(decNumeral body : Int) else decNumeral body) % 2 ^ s.cfg.n ∧ OnlyX [a] s t

/-- R187, R257: `PARSE` of any other text is no fault: zero, `dout = 0`, and the sticky bit `pf`, with `fcode` as before. -/
def Obligations.ParseFailureIsNotAFault : Prop :=
  ∀ (a : XReg) (s : State) (text : List Byte), s.text = some text → (∀ body, ¬IsHexText text body) →
    (∀ minus body, ¬IsDecText minus text body) → decode (wordA 0x53 a) = .ok (.parse a) ∧
    ∃ t, Sys2Proof.Machine.exec (.parse a) s = .next t ∧ t.rsp = completedWith 0#64 ∧ t.xpat a = 0 ∧
      pf t.fsr = true ∧ (∀ k, k ≠ 8 → t.fsr.getLsbD k = s.fsr.getLsbD k) ∧ fcode t.fsr = fcode s.fsr ∧
      KeepsPorts s t ∧ KeepsX [a] s t ∧ KeepsF [] s t ∧ KeepsText s t ∧ KeepsDecimal s t

/-- R188: `TOSTR xa` and then `PARSE xb` leaves `x[b] = x[a]` and answers 1, for every value. -/
def Obligations.ParseOfToStringIsTheValue : Prop :=
  ∀ (a b : XReg) (s : State), s.cfg.InRange →
    ∃ t u, Sys2Proof.Machine.exec (.tostr a) s = .next t ∧ Sys2Proof.Machine.exec (.parse b) t = .next u ∧
      u.rsp = completedWith 1#64 ∧ u.xpat b = (s.xreg a).toNat

/-- R190, R191: `CBRST` and `CBPUT`, the full buffer included; a character written reads back from a character buffer in
canonical form. -/
def Obligations.BufferResetAndAppend : Prop :=
  ∀ (s : State), decode (wordZ 0x54) = .ok .cbrst ∧ decode (wordZ 0x55) = .ok .cbput ∧
    (∃ t, Sys2Proof.Machine.exec .cbrst s = .next t ∧ t.rsp = completedWith 0#64 ∧ t.clen = 0 ∧
      OnlyText (fun _ => False) s t) ∧
    (s.clen < s.cfg.cbSize → Memory.wf (w := 8) s.cb = true →
      ∃ t, Sys2Proof.Machine.exec .cbput s = .next t ∧ t.rsp = completedWith 0#64 ∧
      (memRead (w := 8) t.cb s.clen).toNat = s.din.toNat % 256 ∧ t.clen = s.clen + 1 ∧ OnlyText (· = s.clen) s t) ∧
    (s.clen = s.cfg.cbSize → ∃ t, Sys2Proof.Machine.exec .cbput s = .next t ∧ Raises .bufferOverflow s t)

/-- R193, R194: `CBGET` and `DMGET`, in range and out of range, in a state whose lengths fit their spaces. -/
def Obligations.BufferReadsGiveTheCellOrFault : Prop :=
  ∀ (s : State), s.clen ≤ s.cfg.cbSize → s.dlen ≤ s.cfg.n →
    decode (wordZ 0x56) = .ok .cbget ∧ decode (wordZ 0x57) = .ok .dmget ∧
    (s.din.toNat < s.clen → ∃ t d, Sys2Proof.Machine.exec .cbget s = .next t ∧ t.rsp = completedWith d ∧
      OnlyResponse s t ∧ d.toNat = (memRead (w := 8) s.cb s.din.toNat).toNat) ∧
    (s.clen ≤ s.din.toNat → ∃ t, Sys2Proof.Machine.exec .cbget s = .next t ∧ Raises .indexOutOfBounds s t) ∧
    (s.din.toNat < s.dlen → ∃ t d, Sys2Proof.Machine.exec .dmget s = .next t ∧ t.rsp = completedWith d ∧
      OnlyResponse s t ∧ d.toNat = (memRead s.dm s.din.toNat).toNat) ∧
    (s.dlen ≤ s.din.toNat → ∃ t, Sys2Proof.Machine.exec .dmget s = .next t ∧ Raises .indexOutOfBounds s t)

/-! ## bfloat -/

/-- R206: `q + up` is the multiple of `2^sh` nearest to `m`, the even one on a tie, divided by `2^sh`. -/
def Obligations.RoundingPrimitiveIsNearestEven : Prop :=
  ∀ (m sh : Nat), (rneShift m sh).1 = m / 2 ^ sh ∧ (rneShift m sh).2 ≤ 1 ∧ (sh = 0 → (rneShift m sh).2 = 0) ∧
    2 * |((((rneShift m sh).1 + (rneShift m sh).2) * 2 ^ sh : Nat) : Int) - m| ≤ 2 ^ sh ∧
    (2 * |((((rneShift m sh).1 + (rneShift m sh).2) * 2 ^ sh : Nat) : Int) - m| = 2 ^ sh →
      ((rneShift m sh).1 + (rneShift m sh).2) % 2 = 0)

/-- R208 to R211 with R207's frame: what `FENC` writes for NaNs, infinities, zeros, binary64 subnormals, and sources above
`EMAX` or below `EMIN_SUB`. -/
def Obligations.EncodeSpecialSources : Prop :=
  ∀ (a : FReg) (s : State), decode (wordA 0x60 a) = .ok (.fenc a) ∧ (s.cfg.InRange →
    ∃ t, Sys2Proof.Machine.exec (.fenc a) s = .next t ∧ t.rsp = completedWith 0#64 ∧ OnlyF [a] s t ∧
      t.fpat a < 2 ^ s.cfg.nf ∧
      (dblExp s.din = 0x7FF → dblFrac s.din ≠ 0 → t.fpat a =
        if s.din.getLsbD 51 then 2 ^ (s.cfg.nf - 1) - 1 else 2 ^ (s.cfg.nf - 1) + (2 ^ (s.cfg.nf - 1) - 1)) ∧
      (dblExp s.din = 0x7FF → dblFrac s.din = 0 →
        t.fpat a = (dblSign s.din).toNat * 2 ^ (s.cfg.nf - 1) + (2 ^ (s.cfg.nf - 1) - 2)) ∧
      (dblExp s.din = 0 → t.fpat a = (dblSign s.din).toNat * 2 ^ (s.cfg.nf - 1)) ∧
      (dblExp s.din ≠ 0x7FF → (dblExp s.din : Int) - 1023 > 2 ^ (s.cfg.e - 1) →
        t.fpat a = (dblSign s.din).toNat * 2 ^ (s.cfg.nf - 1) + (2 ^ (s.cfg.nf - 1) - 3)) ∧
      (dblExp s.din ≠ 0 → (dblExp s.din : Int) - 1023 < 2 - 2 ^ (s.cfg.e - 1) - s.cfg.fracBits →
        t.fpat a = (dblSign s.din).toNat * 2 ^ (s.cfg.nf - 1)))

/-- R212, R213 with R210: a finite source at or above `2^EMIN_SUB` gives the finite bfloat nearest to it, of its sign, the even
body on a tie; no NaN, infinity or zero comes of it. -/
def Obligations.EncodeGivesTheNearestFinite : Prop :=
  ∀ (a : FReg) (s t : State), s.cfg.InRange → dblExp s.din ≠ 0 → dblExp s.din ≠ 0x7FF →
    (dblExp s.din : Int) - 1023 ≥ eminSub s.cfg → Sys2Proof.Machine.exec (.fenc a) s = .next t →
    isNumeric s.cfg (t.fpat a) = true ∧ bfBody s.cfg (t.fpat a) ≠ 0 ∧ bfSign s.cfg (t.fpat a) = dblSign s.din ∧
    ∀ q, q < 2 ^ s.cfg.nf → isNumeric s.cfg q = true →
      |bfValue s.cfg (t.fpat a) - dblValue s.din| ≤ |bfValue s.cfg q - dblValue s.din| ∧
      (q ≠ t.fpat a → |bfValue s.cfg (t.fpat a) - dblValue s.din| = |bfValue s.cfg q - dblValue s.din| →
        bfBody s.cfg (t.fpat a) % 2 = 0)

/-- R214 (b), (c), (d): `FENC` keeps the sign of a source that is no NaN and makes no NaN of it, and within the magnitudes it is
monotonic: a larger source has no smaller body, and an infinity has a larger body than every finite source (bodies order as
magnitudes do, R205). -/
def Obligations.EncodeKeepsSignsAndOrder : Prop :=
  ∀ (a : FReg) (s s' t t' : State), s.cfg.InRange → s'.cfg = s.cfg → Sys2Proof.Machine.exec (.fenc a) s = .next t →
    Sys2Proof.Machine.exec (.fenc a) s' = .next t' →
    (¬(dblExp s.din = 0x7FF ∧ dblFrac s.din ≠ 0) →
      bfSign s.cfg (t.fpat a) = dblSign s.din ∧ bfBody s.cfg (t.fpat a) < 2 ^ (s.cfg.nf - 1) - 1) ∧
    (dblExp s.din ≠ 0x7FF → dblExp s'.din ≠ 0x7FF → |dblValue s.din| ≤ |dblValue s'.din| →
      bfBody s.cfg (t.fpat a) ≤ bfBody s.cfg (t'.fpat a)) ∧
    (dblExp s.din ≠ 0x7FF → dblExp s'.din = 0x7FF → dblFrac s'.din = 0 →
      bfBody s.cfg (t.fpat a) < bfBody s.cfg (t'.fpat a))

/-- R215 to R218: `FDEC` is exact on the numeric classes and gives the fixed patterns of R216 on the others. -/
def Obligations.DecodeToDoubleIsExact : Prop :=
  ∀ (a : FReg) (s : State), decode (wordA 0x61 a) = .ok (.fdec a) ∧ (s.cfg.InRange →
    ∃ t d, Sys2Proof.Machine.exec (.fdec a) s = .next t ∧ t.rsp = completedWith d ∧ OnlyResponse s t ∧
      (isNumeric s.cfg (s.freg a).toNat = true →
        dblExp d ≠ 0x7FF ∧ dblSign d = bfSign s.cfg (s.freg a).toNat ∧ dblValue d = bfValue s.cfg (s.freg a).toNat ∧
        (dblExp d = 0 ↔ bfClass s.cfg (s.freg a).toNat = .zero)) ∧
      (bfClass s.cfg (s.freg a).toNat = .infinity →
        d = if bfSign s.cfg (s.freg a).toNat then 0xFFF0000000000000#64 else 0x7FF0000000000000#64) ∧
      (bfClass s.cfg (s.freg a).toNat = .quietNaN → d = 0x7FF8000000000000#64) ∧
      (bfClass s.cfg (s.freg a).toNat = .signallingNaN → d = 0x7FF4000000000000#64))

/-- R214 (a): `FENC` of the `FDEC` of any pattern gives the pattern back, for all six classes. -/
def Obligations.EncodeOfDecodedPatternIsThePattern : Prop :=
  ∀ (a b : FReg) (s : State), s.cfg.InRange →
    ∃ t d u, Sys2Proof.Machine.exec (.fdec a) s = .next t ∧ t.rsp = completedWith d ∧
      Sys2Proof.Machine.exec (.fenc b) { t with din := d } = .next u ∧ u.fpat b = (s.freg a).toNat

/-- R219, R220, R221, R227, R228: the setters and the raw access. -/
def Obligations.BfloatSettersAndRawAccess : Prop :=
  ∀ (a : FReg) (s : State), s.cfg.InRange →
    (decode (wordA 0x62 a) = .ok (.fsetz a) ∧ decode (wordA 0x63 a) = .ok (.fsetinf a) ∧
      decode (wordA 0x64 a) = .ok (.fsetnan a) ∧ decode (wordA 0x66 a) = .ok (.fmvx a) ∧
      decode (wordA 0x67 a) = .ok (.fmxv a)) ∧
    (∃ t, Sys2Proof.Machine.exec (.fsetz a) s = .next t ∧ t.rsp = completedWith 0#64 ∧ OnlyF [a] s t ∧ t.fpat a = 0) ∧
    (∃ t, Sys2Proof.Machine.exec (.fsetinf a) s = .next t ∧ t.rsp = completedWith 0#64 ∧ OnlyF [a] s t ∧
      t.fpat a = s.din.toNat % 2 * 2 ^ (s.cfg.nf - 1) + (2 ^ (s.cfg.nf - 1) - 2)) ∧
    (∃ t, Sys2Proof.Machine.exec (.fsetnan a) s = .next t ∧ t.rsp = completedWith 0#64 ∧ OnlyF [a] s t ∧
      t.fpat a = s.din.toNat % 2 * 2 ^ (s.cfg.nf - 1) + (2 ^ (s.cfg.nf - 1) - 1)) ∧
    (∃ t, Sys2Proof.Machine.exec (.fmvx a) s = .next t ∧ t.rsp = completedWith 0#64 ∧ OnlyF [a] s t ∧
      t.fpat a = s.din.toNat % 2 ^ s.cfg.nf) ∧
    (∃ t d, Sys2Proof.Machine.exec (.fmxv a) s = .next t ∧ t.rsp = completedWith d ∧ OnlyResponse s t ∧
      d.toNat = (s.freg a).toNat)

/-- R200, R226: `FCLASS` answers the class of the pattern, decided by its body, sign and exponent field, and its sign bit. -/
def Obligations.ClassifyReportsTheClassAndSign : Prop :=
  ∀ (a : FReg) (s : State), decode (wordA 0x65 a) = .ok (.fclass a) ∧ (s.cfg.InRange →
    ∃ t d, Sys2Proof.Machine.exec (.fclass a) s = .next t ∧ t.rsp = completedWith d ∧ OnlyResponse s t ∧
      d.toNat < 32 ∧ d.getLsbD 4 = (s.freg a).getLsbD (s.cfg.nf - 1) ∧
      ∀ b, b = (s.freg a).toNat % 2 ^ (s.cfg.nf - 1) →
        d.toNat % 16 =
          if b = 0 then 0
          else if b = 2 ^ (s.cfg.nf - 1) - 1 then (if (s.freg a).getLsbD (s.cfg.nf - 1) then 5 else 4)
          else if b = 2 ^ (s.cfg.nf - 1) - 2 then 3
          else if b < 2 ^ s.cfg.fracBits then 1
          else 2)

/-- R222 to R225, R254: bfloat arithmetic always raises `Unsupported` and touches nothing; a word with a non-zero `C` field is
no such command. -/
def Obligations.BfloatArithmeticIsRejected : Prop :=
  ∀ (a b : FReg) (s : State),
    (decode (wordAB 0x68 a b) = .ok (.fadd a b) ∧ decode (wordAB 0x69 a b) = .ok (.fsub a b) ∧
      decode (wordAB 0x6A a b) = .ok (.fmul a b) ∧ decode (wordAB 0x6B a b) = .ok (.fdiv a b)) ∧
    (∀ c : Fin 8, c ≠ 0 → ∀ op ∈ [0x68, 0x69, 0x6A, 0x6B], decode (wordABC op a b c) = .error .unusedFieldSet) ∧
    (∃ t, Sys2Proof.Machine.exec (.fadd a b) s = .next t ∧ Raises .unsupported s t) ∧
    (∃ t, Sys2Proof.Machine.exec (.fsub a b) s = .next t ∧ Raises .unsupported s t) ∧
    (∃ t, Sys2Proof.Machine.exec (.fmul a b) s = .next t ∧ Raises .unsupported s t) ∧
    (∃ t, Sys2Proof.Machine.exec (.fdiv a b) s = .next t ∧ Raises .unsupported s t)

/-! ## System commands -/

/-- R240, R31: `CSRR` of each of the eight registers, and of a number that names none. That a `CLEN` of `2^64` or more is answered
by its low 64 bits is the model's choice (log 11). -/
def Obligations.CsrReadGivesTheRegisterOrFaults : Prop :=
  ∀ (s : State), decode (wordZ 0x70) = .ok .csrr ∧
    (s.din.toNat < 8 → ∃ t d, Sys2Proof.Machine.exec .csrr s = .next t ∧ t.rsp = completedWith d ∧ OnlyResponse s t ∧
      (s.din = 0#64 → d = BitVec.ofNat 64 s.cfg.n) ∧ (s.din = 1#64 → d = 8#64) ∧
      (s.din = 2#64 → d = BitVec.ofNat 64 s.cfg.nf) ∧ (s.din = 3#64 → d = BitVec.ofNat 64 s.cfg.e) ∧
      (s.din = 4#64 → d = s.fsr) ∧ (s.din = 5#64 → d = BitVec.ofNat 64 s.clen) ∧
      (s.din = 6#64 → d = BitVec.ofNat 64 s.dlen) ∧ (s.din = 7#64 → d = if s.dsign then 1#64 else 0#64)) ∧
    (8 ≤ s.din.toNat → ∃ t, Sys2Proof.Machine.exec .csrr s = .next t ∧ Raises .illegalCommand s t)

/-- R241: `CLRF` clears the fault status and nothing else. -/
def Obligations.ClearFaultsClearsOnlyTheFaultStatus : Prop :=
  ∀ (s : State), decode (wordZ 0x71) = .ok .clrf ∧
    ∃ t, Sys2Proof.Machine.exec .clrf s = .next t ∧ t.rsp = completedWith 0#64 ∧ t.fsr = 0#64 ∧
      KeepsPorts s t ∧ KeepsX [] s t ∧ KeepsF [] s t ∧ KeepsText s t ∧ KeepsDecimal s t
end

