-- ==== Sys2Proof/Laws/Memory.lean ====
section
/-!
SUPPORT. The laws of the cell memories: a read after a write, and that every memory operation keeps the canonical form and the
address bound.
-/

namespace Sys2Proof.Machine

/-- The canonical form, one entry at a time: the first entry is not the unlisted value, lies below every later one, and the
rest is in canonical form. -/
theorem Memory.wf_cons {w : Nat} (a : Nat) (v : BitVec w) (m : Memory w) :
    Memory.wf ((a, v) :: m) = true ↔ v ≠ unlistedCell w ∧ (∀ cell ∈ m, a < cell.1) ∧ Memory.wf m = true := by
  induction m generalizing a v with
  | nil => simp [Memory.wf]
  | cons head m ih =>
    obtain ⟨b, u⟩ := head
    simp only [Memory.wf, Bool.and_eq_true, bne_iff_ne, decide_eq_true_eq, List.mem_cons, forall_eq_or_imp]
    constructor
    · rintro ⟨⟨hv, hab⟩, hm⟩
      exact ⟨hv, ⟨hab, fun cell hc => hab.trans (((ih b u).1 hm).2.1 cell hc)⟩, hm⟩
    · rintro ⟨hv, ⟨hab, -⟩, hm⟩
      exact ⟨⟨hv, hab⟩, hm⟩

@[simp] theorem Memory.wf_nil {w : Nat} : Memory.wf ([] : Memory w) = true := rfl

@[simp] theorem Memory.below_nil {w : Nat} (bound : Nat) : Memory.below bound ([] : Memory w) = true := rfl

/-- An address below every listed one reads as an unlisted cell. -/
theorem memRead_of_lt {w : Nat} (m : Memory w) (a : Nat) (h : ∀ cell ∈ m, a < cell.1) : memRead m a = unlistedCell w := by
  induction m with
  | nil => rfl
  | cons head m ih =>
    obtain ⟨b, u⟩ := head
    have hb : a < b := h (b, u) (by simp)
    simp only [memRead, if_neg hb.ne]
    exact ih fun cell hc => h cell (by simp [hc])

/-- The entries of a written memory are old entries or the one written. -/
theorem mem_memWrite {w : Nat} (m : Memory w) (a : Nat) (v : BitVec w) (cell : Nat × BitVec w)
    (h : cell ∈ memWrite m a v) : cell = (a, v) ∨ cell ∈ m := by
  induction m with
  | nil =>
    simp only [memWrite] at h
    split at h <;> simp_all
  | cons head m ih =>
    obtain ⟨b, u⟩ := head
    simp only [memWrite] at h
    split at h
    · split at h
      · exact .inr h
      · simpa using h
    · split at h
      · split at h
        · exact .inr (by simp [h])
        · rcases List.mem_cons.1 h with e | e
          · exact .inl e
          · exact .inr (by simp [e])
      · rcases List.mem_cons.1 h with e | e
        · exact .inr (by simp [e])
        · rcases ih e with e | e
          · exact .inl e
          · exact .inr (by simp [e])

/-- A write keeps the canonical form. -/
theorem memWrite_wf {w : Nat} (m : Memory w) (a : Nat) (v : BitVec w) (h : Memory.wf m = true) :
    Memory.wf (memWrite m a v) = true := by
  induction m with
  | nil =>
    simp only [memWrite]
    split
    · rfl
    · simpa [Memory.wf] using ‹_›
  | cons head m ih =>
    obtain ⟨b, u⟩ := head
    obtain ⟨hu, hlt, hm⟩ := (Memory.wf_cons b u m).1 h
    simp only [memWrite]
    split
    · next hab =>
      split
      · exact h
      · next hv =>
        refine (Memory.wf_cons _ _ _).2 ⟨hv, fun cell hc => ?_, h⟩
        rcases List.mem_cons.1 hc with rfl | e
        · exact hab
        · exact hab.trans (hlt cell e)
    · next hab =>
      split
      · next e =>
        subst e
        split
        · exact hm
        · next hv => exact (Memory.wf_cons _ _ _).2 ⟨hv, hlt, hm⟩
      · next hne =>
        refine (Memory.wf_cons _ _ _).2 ⟨hu, fun cell hc => ?_, ih hm⟩
        rcases mem_memWrite m a v cell hc with rfl | e
        · simp only; omega
        · exact hlt cell e

/-- A write below the bound keeps every listed address below it. -/
theorem memWrite_below {w : Nat} (bound : Nat) (m : Memory w) (a : Nat) (v : BitVec w) (ha : a < bound)
    (h : Memory.below bound m = true) : Memory.below bound (memWrite m a v) = true := by
  simp only [Memory.below, List.all_eq_true, decide_eq_true_eq] at h ⊢
  intro cell hc
  rcases mem_memWrite m a v cell hc with rfl | e
  · exact ha
  · exact h cell e

/-- A read after a write to the same cell gives the value written. -/
theorem memRead_memWrite_self {w : Nat} (m : Memory w) (a : Nat) (v : BitVec w) (h : Memory.wf m = true) :
    memRead (memWrite m a v) a = v := by
  induction m with
  | nil =>
    simp only [memWrite]
    split
    · next e => simp [memRead, e]
    · simp [memRead]
  | cons head m ih =>
    obtain ⟨b, u⟩ := head
    obtain ⟨-, hlt, hm⟩ := (Memory.wf_cons b u m).1 h
    simp only [memWrite]
    split
    · next hab =>
      split
      · next e =>
        rw [e]
        refine memRead_of_lt _ _ fun cell hc => ?_
        rcases List.mem_cons.1 hc with rfl | e
        · exact hab
        · exact hab.trans (hlt cell e)
      · simp [memRead]
    · split
      · next e =>
        subst e
        split
        · next hv => rw [hv]; exact memRead_of_lt m a hlt
        · simp [memRead]
      · next hne => simpa [memRead, hne] using ih hm

/-- A write leaves every other cell alone. -/
theorem memRead_memWrite_of_ne {w : Nat} (m : Memory w) (a i : Nat) (v : BitVec w) (h : i ≠ a) :
    memRead (memWrite m a v) i = memRead m i := by
  induction m with
  | nil =>
    simp only [memWrite]
    split
    · rfl
    · simp [memRead, h]
  | cons head m ih =>
    obtain ⟨b, u⟩ := head
    simp only [memWrite]
    split
    · split
      · rfl
      · simp [memRead, h]
    · split
      · next e =>
        subst e
        split
        · simp [memRead, h]
        · simp [memRead, h]
      · simp [memRead, ih]

/-! ## Runs of cells -/

/-- Writing a run of cells keeps the canonical form. -/
theorem memWriteList_wf {w : Nat} (vs : List (BitVec w)) (m : Memory w) (a : Nat) (h : Memory.wf m = true) :
    Memory.wf (memWriteList m a vs) = true := by
  induction vs generalizing m a with
  | nil => exact h
  | cons v vs ih => exact ih _ _ (memWrite_wf m a v h)

/-- Writing a run of cells that ends at or below the bound keeps every listed address below it. -/
theorem memWriteList_below {w : Nat} (bound : Nat) (vs : List (BitVec w)) (m : Memory w) (a : Nat)
    (ha : a + vs.length ≤ bound) (h : Memory.below bound m = true) : Memory.below bound (memWriteList m a vs) = true := by
  induction vs generalizing m a with
  | nil => exact h
  | cons v vs ih =>
    simp only [List.length_cons] at ha
    exact ih _ _ (by omega) (memWrite_below bound m a v (by omega) h)

/-- Writing a run of cells leaves every cell outside it alone. -/
theorem memRead_memWriteList_of_outside {w : Nat} (vs : List (BitVec w)) (m : Memory w) (a i : Nat)
    (h : i < a ∨ a + vs.length ≤ i) : memRead (memWriteList m a vs) i = memRead m i := by
  induction vs generalizing m a with
  | nil => rfl
  | cons v vs ih =>
    simp only [List.length_cons] at h
    rw [memWriteList, ih _ _ (by omega), memRead_memWrite_of_ne _ _ _ _ (by omega)]

/-- Writing a run of cells and reading them back gives what was written. -/
theorem memReadList_memWriteList {w : Nat} (vs : List (BitVec w)) (m : Memory w) (a : Nat) (h : Memory.wf m = true) :
    memReadList (memWriteList m a vs) a vs.length = vs := by
  induction vs generalizing m a with
  | nil => rfl
  | cons v vs ih =>
    simp only [memWriteList, List.length_cons, memReadList, ih _ _ (memWrite_wf m a v h), List.cons.injEq, and_true]
    rw [memRead_memWriteList_of_outside _ _ _ _ (by omega), memRead_memWrite_self _ _ _ h]

/-- Reading `k` cells gives `k` values. -/
@[simp] theorem memReadList_length {w : Nat} (m : Memory w) (a k : Nat) : (memReadList m a k).length = k := by
  induction k generalizing a with
  | zero => rfl
  | succ k ih => simp [memReadList, ih]

/-- The cells read are the cells from the address on. -/
theorem memReadList_getElem {w : Nat} (m : Memory w) (a k j : Nat) (h : j < k) :
    (memReadList m a k)[j]'(by simpa using h) = memRead m (a + j) := by
  induction k generalizing a j with
  | zero => omega
  | succ k ih =>
    cases j with
    | zero => rfl
    | succ j =>
      simp only [memReadList, List.getElem_cons_succ]
      rw [ih (a + 1) j (by omega)]
      congr 1; omega

/-- Two memories that agree on the cells read give the same run. -/
theorem memReadList_congr {w : Nat} (m m' : Memory w) (a k : Nat) (h : ∀ i, memRead m i = memRead m' i) :
    memReadList m a k = memReadList m' a k := by
  induction k generalizing a with
  | zero => rfl
  | succ k ih => simp [memReadList, h, ih]

/-- Memory in canonical form is determined by what its cells read as. -/
theorem Memory.ext_of_wf {w : Nat} (m m' : Memory w) (h : Memory.wf m = true) (h' : Memory.wf m' = true)
    (he : ∀ i, memRead m i = memRead m' i) : m = m' := by
  induction m generalizing m' with
  | nil =>
    cases m' with
    | nil => rfl
    | cons head m' =>
      obtain ⟨b, u⟩ := head
      have hb := he b
      simp only [memRead, if_pos] at hb
      exact absurd hb.symm ((Memory.wf_cons b u m').1 h').1
  | cons head m ih =>
    obtain ⟨a, v⟩ := head
    obtain ⟨hv, hlt, hm⟩ := (Memory.wf_cons a v m).1 h
    cases m' with
    | nil =>
      have ha := he a
      simp only [memRead, if_pos] at ha
      exact absurd ha hv
    | cons head' m' =>
      obtain ⟨b, u⟩ := head'
      obtain ⟨hu, hlt', hm'⟩ := (Memory.wf_cons b u m').1 h'
      have hab : a = b := by
        rcases Nat.lt_trichotomy a b with hc | hc | hc
        · have ha := he a
          simp only [memRead, if_pos, if_neg hc.ne] at ha
          rw [memRead_of_lt m' a fun cell hx => hc.trans (hlt' cell hx)] at ha
          exact absurd ha hv
        · exact hc
        · have hb := he b
          simp only [memRead, if_pos, if_neg hc.ne] at hb
          rw [memRead_of_lt m b fun cell hx => hc.trans (hlt cell hx)] at hb
          exact absurd hb.symm hu
      subst hab
      have hvu : v = u := by simpa [memRead] using he a
      subst hvu
      refine congrArg _ (ih m' hm hm' fun i => ?_)
      by_cases hi : i = a
      · subst hi; rw [memRead_of_lt m i hlt, memRead_of_lt m' i hlt']
      · simpa [memRead, hi] using he i

/-- The memories of every reset state are in canonical form and list nothing. -/
theorem State.resetWith_memories (c : Config) :
    Memory.wf (w := 8) (State.resetWith c).cb = true ∧ Memory.wf (State.resetWith c).dm = true ∧
    (State.resetWith c).cb = [] ∧ (State.resetWith c).dm = [] := ⟨rfl, rfl, rfl, rfl⟩

end Sys2Proof.Machine
end

