-- ==== Sys2Proof/Laws/State.lean ====
section
/-!
SUPPORT. One lemma per field per update of `State`, so that no proof unfolds a record update; and the register accessors over
each update.
-/

namespace Sys2Proof.Machine

/-! ## `State.setX` -/

@[simp] theorem State.setX_cfg (s : State) (r : XReg) (v : BitVec s.cfg.n) : (s.setX r v).cfg = s.cfg := rfl
@[simp] theorem State.setX_x (s : State) (r : XReg) (v : BitVec s.cfg.n) : (s.setX r v).x = s.x.set r.val v.toNat := rfl
@[simp] theorem State.setX_f (s : State) (r : XReg) (v : BitVec s.cfg.n) : (s.setX r v).f = s.f := rfl
@[simp] theorem State.setX_cb (s : State) (r : XReg) (v : BitVec s.cfg.n) : (s.setX r v).cb = s.cb := rfl
@[simp] theorem State.setX_clen (s : State) (r : XReg) (v : BitVec s.cfg.n) : (s.setX r v).clen = s.clen := rfl
@[simp] theorem State.setX_dm (s : State) (r : XReg) (v : BitVec s.cfg.n) : (s.setX r v).dm = s.dm := rfl
@[simp] theorem State.setX_dlen (s : State) (r : XReg) (v : BitVec s.cfg.n) : (s.setX r v).dlen = s.dlen := rfl
@[simp] theorem State.setX_dsign (s : State) (r : XReg) (v : BitVec s.cfg.n) : (s.setX r v).dsign = s.dsign := rfl
@[simp] theorem State.setX_fsr (s : State) (r : XReg) (v : BitVec s.cfg.n) : (s.setX r v).fsr = s.fsr := rfl
@[simp] theorem State.setX_pending (s : State) (r : XReg) (v : BitVec s.cfg.n) : (s.setX r v).pending = s.pending := rfl
@[simp] theorem State.setX_din (s : State) (r : XReg) (v : BitVec s.cfg.n) : (s.setX r v).din = s.din := rfl
@[simp] theorem State.setX_rsp (s : State) (r : XReg) (v : BitVec s.cfg.n) : (s.setX r v).rsp = s.rsp := rfl
@[simp] theorem State.setX_fpat (s : State) (r : XReg) (v : BitVec s.cfg.n) (q : FReg) : (s.setX r v).fpat q = s.fpat q := rfl
@[simp] theorem State.setX_freg (s : State) (r : XReg) (v : BitVec s.cfg.n) (q : FReg) : (s.setX r v).freg q = s.freg q := rfl

/-! ## `State.setF` -/

@[simp] theorem State.setF_cfg (s : State) (r : FReg) (v : BitVec s.cfg.nf) : (s.setF r v).cfg = s.cfg := rfl
@[simp] theorem State.setF_x (s : State) (r : FReg) (v : BitVec s.cfg.nf) : (s.setF r v).x = s.x := rfl
@[simp] theorem State.setF_f (s : State) (r : FReg) (v : BitVec s.cfg.nf) : (s.setF r v).f = s.f.set r.val v.toNat := rfl
@[simp] theorem State.setF_cb (s : State) (r : FReg) (v : BitVec s.cfg.nf) : (s.setF r v).cb = s.cb := rfl
@[simp] theorem State.setF_clen (s : State) (r : FReg) (v : BitVec s.cfg.nf) : (s.setF r v).clen = s.clen := rfl
@[simp] theorem State.setF_dm (s : State) (r : FReg) (v : BitVec s.cfg.nf) : (s.setF r v).dm = s.dm := rfl
@[simp] theorem State.setF_dlen (s : State) (r : FReg) (v : BitVec s.cfg.nf) : (s.setF r v).dlen = s.dlen := rfl
@[simp] theorem State.setF_dsign (s : State) (r : FReg) (v : BitVec s.cfg.nf) : (s.setF r v).dsign = s.dsign := rfl
@[simp] theorem State.setF_fsr (s : State) (r : FReg) (v : BitVec s.cfg.nf) : (s.setF r v).fsr = s.fsr := rfl
@[simp] theorem State.setF_pending (s : State) (r : FReg) (v : BitVec s.cfg.nf) : (s.setF r v).pending = s.pending := rfl
@[simp] theorem State.setF_din (s : State) (r : FReg) (v : BitVec s.cfg.nf) : (s.setF r v).din = s.din := rfl
@[simp] theorem State.setF_rsp (s : State) (r : FReg) (v : BitVec s.cfg.nf) : (s.setF r v).rsp = s.rsp := rfl
@[simp] theorem State.setF_xpat (s : State) (r : FReg) (v : BitVec s.cfg.nf) (q : XReg) : (s.setF r v).xpat q = s.xpat q := rfl
@[simp] theorem State.setF_xreg (s : State) (r : FReg) (v : BitVec s.cfg.nf) (q : XReg) : (s.setF r v).xreg q = s.xreg q := rfl

/-! ## `State.complete` -/

@[simp] theorem State.complete_cfg (s : State) (d : Native) : (s.complete d).cfg = s.cfg := rfl
@[simp] theorem State.complete_x (s : State) (d : Native) : (s.complete d).x = s.x := rfl
@[simp] theorem State.complete_f (s : State) (d : Native) : (s.complete d).f = s.f := rfl
@[simp] theorem State.complete_cb (s : State) (d : Native) : (s.complete d).cb = s.cb := rfl
@[simp] theorem State.complete_clen (s : State) (d : Native) : (s.complete d).clen = s.clen := rfl
@[simp] theorem State.complete_dm (s : State) (d : Native) : (s.complete d).dm = s.dm := rfl
@[simp] theorem State.complete_dlen (s : State) (d : Native) : (s.complete d).dlen = s.dlen := rfl
@[simp] theorem State.complete_dsign (s : State) (d : Native) : (s.complete d).dsign = s.dsign := rfl
@[simp] theorem State.complete_fsr (s : State) (d : Native) : (s.complete d).fsr = s.fsr := rfl
@[simp] theorem State.complete_pending (s : State) (d : Native) : (s.complete d).pending = s.pending := rfl
@[simp] theorem State.complete_din (s : State) (d : Native) : (s.complete d).din = s.din := rfl
@[simp] theorem State.complete_rsp (s : State) (d : Native) : (s.complete d).rsp = some { fault := 0#4, dout := d } := rfl
@[simp] theorem State.complete_xpat (s : State) (d : Native) (q : XReg) : (s.complete d).xpat q = s.xpat q := rfl
@[simp] theorem State.complete_xreg (s : State) (d : Native) (q : XReg) : (s.complete d).xreg q = s.xreg q := rfl
@[simp] theorem State.complete_fpat (s : State) (d : Native) (q : FReg) : (s.complete d).fpat q = s.fpat q := rfl
@[simp] theorem State.complete_freg (s : State) (d : Native) (q : FReg) : (s.complete d).freg q = s.freg q := rfl

/-! ## `State.raise` -/

@[simp] theorem State.raise_cfg (s : State) (c : FaultCause) : (s.raise c).cfg = s.cfg := rfl
@[simp] theorem State.raise_x (s : State) (c : FaultCause) : (s.raise c).x = s.x := rfl
@[simp] theorem State.raise_f (s : State) (c : FaultCause) : (s.raise c).f = s.f := rfl
@[simp] theorem State.raise_cb (s : State) (c : FaultCause) : (s.raise c).cb = s.cb := rfl
@[simp] theorem State.raise_clen (s : State) (c : FaultCause) : (s.raise c).clen = s.clen := rfl
@[simp] theorem State.raise_dm (s : State) (c : FaultCause) : (s.raise c).dm = s.dm := rfl
@[simp] theorem State.raise_dlen (s : State) (c : FaultCause) : (s.raise c).dlen = s.dlen := rfl
@[simp] theorem State.raise_dsign (s : State) (c : FaultCause) : (s.raise c).dsign = s.dsign := rfl
@[simp] theorem State.raise_fsr (s : State) (c : FaultCause) : (s.raise c).fsr = recordFirst s.fsr c.code := rfl
@[simp] theorem State.raise_pending (s : State) (c : FaultCause) : (s.raise c).pending = s.pending := rfl
@[simp] theorem State.raise_din (s : State) (c : FaultCause) : (s.raise c).din = s.din := rfl
@[simp] theorem State.raise_rsp (s : State) (c : FaultCause) : (s.raise c).rsp = some { fault := c.code, dout := 0#64 } := rfl
@[simp] theorem State.raise_xpat (s : State) (c : FaultCause) (q : XReg) : (s.raise c).xpat q = s.xpat q := rfl
@[simp] theorem State.raise_xreg (s : State) (c : FaultCause) (q : XReg) : (s.raise c).xreg q = s.xreg q := rfl
@[simp] theorem State.raise_fpat (s : State) (c : FaultCause) (q : FReg) : (s.raise c).fpat q = s.fpat q := rfl
@[simp] theorem State.raise_freg (s : State) (c : FaultCause) (q : FReg) : (s.raise c).freg q = s.freg q := rfl

/-! ## `State.clearFaults` -/

@[simp] theorem State.clearFaults_cfg (s : State) : (s.clearFaults).cfg = s.cfg := rfl
@[simp] theorem State.clearFaults_x (s : State) : (s.clearFaults).x = s.x := rfl
@[simp] theorem State.clearFaults_f (s : State) : (s.clearFaults).f = s.f := rfl
@[simp] theorem State.clearFaults_cb (s : State) : (s.clearFaults).cb = s.cb := rfl
@[simp] theorem State.clearFaults_clen (s : State) : (s.clearFaults).clen = s.clen := rfl
@[simp] theorem State.clearFaults_dm (s : State) : (s.clearFaults).dm = s.dm := rfl
@[simp] theorem State.clearFaults_dlen (s : State) : (s.clearFaults).dlen = s.dlen := rfl
@[simp] theorem State.clearFaults_dsign (s : State) : (s.clearFaults).dsign = s.dsign := rfl
@[simp] theorem State.clearFaults_fsr (s : State) : (s.clearFaults).fsr = 0#64 := rfl
@[simp] theorem State.clearFaults_pending (s : State) : (s.clearFaults).pending = s.pending := rfl
@[simp] theorem State.clearFaults_din (s : State) : (s.clearFaults).din = s.din := rfl
@[simp] theorem State.clearFaults_rsp (s : State) : (s.clearFaults).rsp = s.rsp := rfl
@[simp] theorem State.clearFaults_xpat (s : State) (q : XReg) : (s.clearFaults).xpat q = s.xpat q := rfl
@[simp] theorem State.clearFaults_xreg (s : State) (q : XReg) : (s.clearFaults).xreg q = s.xreg q := rfl
@[simp] theorem State.clearFaults_fpat (s : State) (q : FReg) : (s.clearFaults).fpat q = s.fpat q := rfl
@[simp] theorem State.clearFaults_freg (s : State) (q : FReg) : (s.clearFaults).freg q = s.freg q := rfl

/-! ## `State.setPf` -/

@[simp] theorem State.setPf_cfg (s : State) : (s.setPf).cfg = s.cfg := rfl
@[simp] theorem State.setPf_x (s : State) : (s.setPf).x = s.x := rfl
@[simp] theorem State.setPf_f (s : State) : (s.setPf).f = s.f := rfl
@[simp] theorem State.setPf_cb (s : State) : (s.setPf).cb = s.cb := rfl
@[simp] theorem State.setPf_clen (s : State) : (s.setPf).clen = s.clen := rfl
@[simp] theorem State.setPf_dm (s : State) : (s.setPf).dm = s.dm := rfl
@[simp] theorem State.setPf_dlen (s : State) : (s.setPf).dlen = s.dlen := rfl
@[simp] theorem State.setPf_dsign (s : State) : (s.setPf).dsign = s.dsign := rfl
@[simp] theorem State.setPf_fsr (s : State) : (s.setPf).fsr = withPf s.fsr := rfl
@[simp] theorem State.setPf_pending (s : State) : (s.setPf).pending = s.pending := rfl
@[simp] theorem State.setPf_din (s : State) : (s.setPf).din = s.din := rfl
@[simp] theorem State.setPf_rsp (s : State) : (s.setPf).rsp = s.rsp := rfl
@[simp] theorem State.setPf_xpat (s : State) (q : XReg) : (s.setPf).xpat q = s.xpat q := rfl
@[simp] theorem State.setPf_xreg (s : State) (q : XReg) : (s.setPf).xreg q = s.xreg q := rfl
@[simp] theorem State.setPf_fpat (s : State) (q : FReg) : (s.setPf).fpat q = s.fpat q := rfl
@[simp] theorem State.setPf_freg (s : State) (q : FReg) : (s.setPf).freg q = s.freg q := rfl

/-! ## `State.emptyText` -/

@[simp] theorem State.emptyText_cfg (s : State) : (s.emptyText).cfg = s.cfg := rfl
@[simp] theorem State.emptyText_x (s : State) : (s.emptyText).x = s.x := rfl
@[simp] theorem State.emptyText_f (s : State) : (s.emptyText).f = s.f := rfl
@[simp] theorem State.emptyText_cb (s : State) : (s.emptyText).cb = s.cb := rfl
@[simp] theorem State.emptyText_clen (s : State) : (s.emptyText).clen = 0 := rfl
@[simp] theorem State.emptyText_dm (s : State) : (s.emptyText).dm = s.dm := rfl
@[simp] theorem State.emptyText_dlen (s : State) : (s.emptyText).dlen = s.dlen := rfl
@[simp] theorem State.emptyText_dsign (s : State) : (s.emptyText).dsign = s.dsign := rfl
@[simp] theorem State.emptyText_fsr (s : State) : (s.emptyText).fsr = s.fsr := rfl
@[simp] theorem State.emptyText_pending (s : State) : (s.emptyText).pending = s.pending := rfl
@[simp] theorem State.emptyText_din (s : State) : (s.emptyText).din = s.din := rfl
@[simp] theorem State.emptyText_rsp (s : State) : (s.emptyText).rsp = s.rsp := rfl
@[simp] theorem State.emptyText_xpat (s : State) (q : XReg) : (s.emptyText).xpat q = s.xpat q := rfl
@[simp] theorem State.emptyText_xreg (s : State) (q : XReg) : (s.emptyText).xreg q = s.xreg q := rfl
@[simp] theorem State.emptyText_fpat (s : State) (q : FReg) : (s.emptyText).fpat q = s.fpat q := rfl
@[simp] theorem State.emptyText_freg (s : State) (q : FReg) : (s.emptyText).freg q = s.freg q := rfl

/-! ## `State.accept` -/

@[simp] theorem State.accept_cfg (s : State) (rest : List HostMove) (d : Native) : (s.accept rest d).cfg = s.cfg := rfl
@[simp] theorem State.accept_x (s : State) (rest : List HostMove) (d : Native) : (s.accept rest d).x = s.x := rfl
@[simp] theorem State.accept_f (s : State) (rest : List HostMove) (d : Native) : (s.accept rest d).f = s.f := rfl
@[simp] theorem State.accept_cb (s : State) (rest : List HostMove) (d : Native) : (s.accept rest d).cb = s.cb := rfl
@[simp] theorem State.accept_clen (s : State) (rest : List HostMove) (d : Native) : (s.accept rest d).clen = s.clen := rfl
@[simp] theorem State.accept_dm (s : State) (rest : List HostMove) (d : Native) : (s.accept rest d).dm = s.dm := rfl
@[simp] theorem State.accept_dlen (s : State) (rest : List HostMove) (d : Native) : (s.accept rest d).dlen = s.dlen := rfl
@[simp] theorem State.accept_dsign (s : State) (rest : List HostMove) (d : Native) : (s.accept rest d).dsign = s.dsign := rfl
@[simp] theorem State.accept_fsr (s : State) (rest : List HostMove) (d : Native) : (s.accept rest d).fsr = s.fsr := rfl
@[simp] theorem State.accept_pending (s : State) (rest : List HostMove) (d : Native) : (s.accept rest d).pending = rest := rfl
@[simp] theorem State.accept_din (s : State) (rest : List HostMove) (d : Native) : (s.accept rest d).din = d := rfl
@[simp] theorem State.accept_rsp (s : State) (rest : List HostMove) (d : Native) : (s.accept rest d).rsp = s.rsp := rfl
@[simp] theorem State.accept_xpat (s : State) (rest : List HostMove) (d : Native) (q : XReg) : (s.accept rest d).xpat q = s.xpat q := rfl
@[simp] theorem State.accept_xreg (s : State) (rest : List HostMove) (d : Native) (q : XReg) : (s.accept rest d).xreg q = s.xreg q := rfl
@[simp] theorem State.accept_fpat (s : State) (rest : List HostMove) (d : Native) (q : FReg) : (s.accept rest d).fpat q = s.fpat q := rfl
@[simp] theorem State.accept_freg (s : State) (rest : List HostMove) (d : Native) (q : FReg) : (s.accept rest d).freg q = s.freg q := rfl

/-! ## `State.assertReset` -/

@[simp] theorem State.assertReset_cfg (s : State) (rest : List HostMove) : (s.assertReset rest).cfg = s.cfg := rfl
@[simp] theorem State.assertReset_x (s : State) (rest : List HostMove) : (s.assertReset rest).x = Vector.replicate 8 0 := rfl
@[simp] theorem State.assertReset_f (s : State) (rest : List HostMove) : (s.assertReset rest).f = Vector.replicate 8 0 := rfl
@[simp] theorem State.assertReset_cb (s : State) (rest : List HostMove) : (s.assertReset rest).cb = [] := rfl
@[simp] theorem State.assertReset_clen (s : State) (rest : List HostMove) : (s.assertReset rest).clen = 0 := rfl
@[simp] theorem State.assertReset_dm (s : State) (rest : List HostMove) : (s.assertReset rest).dm = [] := rfl
@[simp] theorem State.assertReset_dlen (s : State) (rest : List HostMove) : (s.assertReset rest).dlen = 1 := rfl
@[simp] theorem State.assertReset_dsign (s : State) (rest : List HostMove) : (s.assertReset rest).dsign = false := rfl
@[simp] theorem State.assertReset_fsr (s : State) (rest : List HostMove) : (s.assertReset rest).fsr = 0#64 := rfl
@[simp] theorem State.assertReset_pending (s : State) (rest : List HostMove) : (s.assertReset rest).pending = rest := rfl
@[simp] theorem State.assertReset_din (s : State) (rest : List HostMove) : (s.assertReset rest).din = 0#64 := rfl
@[simp] theorem State.assertReset_rsp (s : State) (rest : List HostMove) : (s.assertReset rest).rsp = none := rfl

/-! ## A register after a write -/

/-- A written integer register holds the pattern written (R10). -/
@[simp] theorem State.setX_xpat_self (s : State) (r : XReg) (v : BitVec s.cfg.n) : (s.setX r v).xpat r = v.toNat := by
  simp [State.xpat]

/-- Every other integer register is as before. -/
theorem State.setX_xpat_of_ne (s : State) (r q : XReg) (v : BitVec s.cfg.n) (h : q ≠ r) : (s.setX r v).xpat q = s.xpat q := by
  have hv : r.val ≠ q.val := fun e => h (Fin.ext e.symm)
  simp [State.xpat, hv]

/-- An integer register just written reads as the pattern written. -/
@[simp] theorem State.setX_xreg_self (s : State) (r : XReg) (v : BitVec s.cfg.n) : (s.setX r v).xreg r = v := by
  simp [State.xreg]

/-- The masking invariant after a write (R25). -/
theorem State.setX_xpat_lt (s : State) (r : XReg) (v : BitVec s.cfg.n) (h : ∀ q, s.xpat q < 2 ^ s.cfg.n) (q : XReg) :
    (s.setX r v).xpat q < 2 ^ s.cfg.n := by
  by_cases hq : q = r
  · subst hq; simp [v.isLt]
  · rw [State.setX_xpat_of_ne s r q v hq]; exact h q

/-- A written bfloat register holds the pattern written (R10). -/
@[simp] theorem State.setF_fpat_self (s : State) (r : FReg) (v : BitVec s.cfg.nf) : (s.setF r v).fpat r = v.toNat := by
  simp [State.fpat]

/-- Every other bfloat register is as before. -/
theorem State.setF_fpat_of_ne (s : State) (r q : FReg) (v : BitVec s.cfg.nf) (h : q ≠ r) : (s.setF r v).fpat q = s.fpat q := by
  have hv : r.val ≠ q.val := fun e => h (Fin.ext e.symm)
  simp [State.fpat, hv]

/-- A bfloat register just written reads as the pattern written. -/
@[simp] theorem State.setF_freg_self (s : State) (r : FReg) (v : BitVec s.cfg.nf) : (s.setF r v).freg r = v := by
  simp [State.freg]

/-- The width bound of bfloat patterns after a write. -/
theorem State.setF_fpat_lt (s : State) (r : FReg) (v : BitVec s.cfg.nf) (h : ∀ q, s.fpat q < 2 ^ s.cfg.nf) (q : FReg) :
    (s.setF r v).fpat q < 2 ^ s.cfg.nf := by
  by_cases hq : q = r
  · subst hq; simp [v.isLt]
  · rw [State.setF_fpat_of_ne s r q v hq]; exact h q

end Sys2Proof.Machine
end

