-- ==== Sys2Proof/Laws/Ops.lean ====
section
/-!
SUPPORT. One lemma for each shared operation that says once everything it can do; later proofs cite these and do not unfold the
operation.
-/

namespace Sys2Proof.Machine

/-! ## Going on or stopping -/

@[simp] theorem orStop_some {α : Type} (v : α) (r : Fault) (k : α → Result) : orStop (some v) r k = k v := rfl

@[simp] theorem orStop_none {α : Type} (r : Fault) (k : α → Result) : orStop none r k = .fault r := rfl

/-- `orStop` answers a next state exactly where there is a value and its continuation answers that state. -/
theorem orStop_eq_next {α : Type} (o : Option α) (r : Fault) (k : α → Result) (t : State) :
    orStop o r k = .next t ↔ ∃ v, o = some v ∧ k v = .next t := by
  cases o <;> simp

/-! ## Cells and texts -/

/-- A character is read where `CB` has the address, and nowhere else (R50). -/
theorem State.charAt_eq_some (s : State) (i : Nat) (c : Byte) :
    s.charAt i = some c ↔ i < s.cfg.cbSize ∧ memRead (w := 8) s.cb i = c := by
  unfold State.charAt
  split <;> simp_all

/-- A digit is read where `DM` has the address, and nowhere else (R50). -/
theorem State.digitAt_eq_some (s : State) (k : Nat) (d : Digit) :
    s.digitAt k = some d ↔ k < s.cfg.n ∧ memRead s.dm k = d := by
  unfold State.digitAt
  split <;> simp_all

/-- The text is the first `CLEN` cells, where they all exist (R35). -/
theorem State.text_eq_some (s : State) (text : List Byte) :
    s.text = some text ↔ s.clen ≤ s.cfg.cbSize ∧ memReadList (w := 8) s.cb 0 s.clen = text := by
  unfold State.text
  split <;> simp_all

/-- The text has `CLEN` characters. -/
theorem State.text_length (s : State) (text : List Byte) (h : s.text = some text) : text.length = s.clen := by
  rw [← ((s.text_eq_some text).1 h).2, memReadList_length]

/-- Storing a text that fits writes the cells below its length and `CLEN`, and nothing else. -/
theorem State.storeText_eq_some (s t : State) (text : List Byte) :
    s.storeText text = some t ↔
      text.length ≤ s.cfg.cbSize ∧ t = { s with cb := memWriteList s.cb 0 text, clen := text.length } := by
  unfold State.storeText
  split
  · simp only [Option.some.injEq, eq_comm]; tauto
  · simp_all

/-- A text stored in a memory in canonical form reads back. -/
theorem State.text_storeText (s t : State) (text : List Byte) (hw : Memory.wf (w := 8) s.cb = true)
    (h : s.storeText text = some t) : t.text = some text := by
  obtain ⟨hl, rfl⟩ := (s.storeText_eq_some t text).1 h
  exact (State.text_eq_some _ _).2 ⟨hl, memReadList_memWriteList text s.cb 0 hw⟩

/-- Appending a character writes the cell at `CLEN`, which exists, and advances `CLEN`, and nothing else (R191). -/
theorem State.appendChar_eq_some (s t : State) (c : Byte) :
    s.appendChar c = some t ↔ s.clen < s.cfg.cbSize ∧ t = { s with cb := memWrite s.cb s.clen c, clen := s.clen + 1 } := by
  unfold State.appendChar
  split
  · simp only [Option.some.injEq, eq_comm]; tauto
  · simp_all

/-- Storing a Decimal that fits writes the cells below its length, `DLEN` and `DSIGN`, and nothing else (R176). -/
theorem State.storeDigits_eq_some (s t : State) (sign : Bool) (ds : List Digit) :
    s.storeDigits sign ds = some t ↔
      ds.length ≤ s.cfg.n ∧ t = { s with dm := memWriteList s.dm 0 ds, dlen := ds.length, dsign := sign } := by
  unfold State.storeDigits
  split
  · simp only [Option.some.injEq, eq_comm]; tauto
  · simp_all

/-- Digits stored in a memory in canonical form read back. -/
theorem State.digits_storeDigits (s t : State) (sign : Bool) (ds : List Digit) (hw : Memory.wf s.dm = true)
    (h : s.storeDigits sign ds = some t) : memReadList t.dm 0 t.dlen = ds ∧ t.dsign = sign := by
  obtain ⟨-, rfl⟩ := (s.storeDigits_eq_some t sign ds).1 h
  exact ⟨memReadList_memWriteList ds s.dm 0 hw, rfl⟩

/-! ## The fault status -/

/-- The first code sticks (R33, R256). -/
theorem fcode_recordFirst (fsr : BitVec 64) (c : BitVec 4) :
    fcode (recordFirst fsr c) = if fcode fsr = 0#4 then c else fcode fsr := by
  unfold recordFirst
  split
  · ext k hk
    have hm : ∀ j : Fin 4, (~~~0xF#64).getLsbD j.val = false := by decide
    have hb : (~~~0xF#64).getLsbD k = false := hm ⟨k, hk⟩
    have h64 : k < 64 := by omega
    simp only [fcode, withFcode, BitVec.getElem_extractLsb', Nat.zero_add, BitVec.getLsbD_or, BitVec.getLsbD_and, hb,
      Bool.and_false, Bool.false_or, BitVec.getLsbD_setWidth, h64, decide_true, Bool.true_and]
    exact BitVec.getLsbD_eq_getElem hk
  · rfl

/-- Recording a code changes bits 3:0 only. -/
theorem getLsbD_recordFirst (fsr : BitVec 64) (c : BitVec 4) (k : Nat) (hk : 4 ≤ k) :
    (recordFirst fsr c).getLsbD k = fsr.getLsbD k := by
  unfold recordFirst
  split
  · by_cases h64 : k < 64
    · have hm : ∀ j : Fin 60, (~~~0xF#64).getLsbD (j.val + 4) = true := by decide
      have h1 : (~~~0xF#64).getLsbD k = true := by
        have := hm ⟨k - 4, by omega⟩
        rwa [show k - 4 + 4 = k by omega] at this
      have h2 : c.getLsbD k = false := BitVec.getLsbD_of_ge c k hk
      simp only [withFcode, BitVec.getLsbD_or, BitVec.getLsbD_and, h1, BitVec.getLsbD_setWidth, h2]
      simp
    · rw [BitVec.getLsbD_of_ge _ _ (by omega), BitVec.getLsbD_of_ge _ _ (by omega)]
  · rfl

/-- Setting `pf` sets bit 8 and keeps every other bit (R187). -/
theorem getLsbD_withPf (fsr : BitVec 64) (k : Nat) : (withPf fsr).getLsbD k = (fsr.getLsbD k || decide (k = 8)) := by
  have hm : (0x100#64).getLsbD k = decide (k = 8) := by
    by_cases h64 : k < 64
    · have h : ∀ j : Fin 64, (0x100#64).getLsbD j.val = decide (j.val = 8) := by decide
      exact h ⟨k, h64⟩
    · rw [BitVec.getLsbD_of_ge _ _ (by omega)]
      simp; omega
  simp only [withPf, BitVec.getLsbD_or, hm]

/-- Setting `pf` keeps the recorded fault code (R257). -/
@[simp] theorem fcode_withPf (fsr : BitVec 64) : fcode (withPf fsr) = fcode fsr := by
  ext k hk
  simp [fcode, getLsbD_withPf]; omega

/-- After `setPf`, `pf` reads 1. -/
@[simp] theorem pf_withPf (fsr : BitVec 64) : pf (withPf fsr) = true := by simp [pf, getLsbD_withPf]

/-! ## The two checks that may raise a fault -/

/-- The index check: the fault at or above the bound, the continuation below it (R154). -/
theorem withIndex_eq (s : State) (bound : Nat) (k : Nat → Result) :
    (bound ≤ s.din.toNat → withIndex s bound k = .next (s.raise .indexOutOfBounds)) ∧
    (s.din.toNat < bound → withIndex s bound k = k s.din.toNat) := by
  refine ⟨fun h => ?_, fun h => ?_⟩
  · simp [withIndex, State.udin, h]
  · simp [withIndex, State.udin, Nat.not_le.2 h]

/-- The divisor check: the fault on zero, the continuation on the division of the old values otherwise (R165). -/
theorem withQuotient_eq (s : State) (a b : XReg) (k : BitVec s.cfg.n × BitVec s.cfg.n → Result) :
    (s.xreg b = 0#s.cfg.n → withQuotient s a b k = .next (s.raise .divideByZero)) ∧
    (s.xreg b ≠ 0#s.cfg.n → withQuotient s a b k = k (divideWord (s.xreg a) (s.xreg b))) := by
  refine ⟨fun h => ?_, fun h => ?_⟩
  · simp [withQuotient, h]
  · simp [withQuotient, h]

end Sys2Proof.Machine
end

