-- ==== Sys2Proof/Laws/Frames.lean ====
section
/-!
SUPPORT. What the shared ways to end a command leave unchanged, in the terms of `Safety.lean`: a response alone, a written
register, a fault, a stored text, a stored Decimal.
-/

namespace Sys2Proof.Machine

theorem KeepsX.refl (rs : List XReg) (s : State) : KeepsX rs s s := fun _ _ => rfl

theorem KeepsF.refl (rs : List FReg) (s : State) : KeepsF rs s s := fun _ _ => rfl

theorem KeepsText.refl (s : State) : KeepsText s s := ⟨rfl, fun _ => rfl⟩

theorem KeepsDecimal.refl (s : State) : KeepsDecimal s s := ⟨rfl, rfl, fun _ => rfl⟩

/-- Writing `x[r]` changes no integer register but `x[r]`. -/
theorem State.setX_keepsX (s : State) (r : XReg) (v : BitVec s.cfg.n) (rs : List XReg) (h : r ∈ rs) :
    KeepsX rs s (s.setX r v) := fun q hq => State.setX_xpat_of_ne s r q v fun e => hq (e ▸ h)

/-- Writing `f[r]` changes no bfloat register but `f[r]`. -/
theorem State.setF_keepsF (s : State) (r : FReg) (v : BitVec s.cfg.nf) (rs : List FReg) (h : r ∈ rs) :
    KeepsF rs s (s.setF r v) := fun q hq => State.setF_fpat_of_ne s r q v fun e => hq (e ▸ h)

/-- A response changes nothing else. -/
theorem State.complete_onlyResponse (s : State) (d : Native) : OnlyResponse s (s.complete d) :=
  ⟨⟨rfl, rfl, rfl⟩, KeepsX.refl _ _, KeepsF.refl _ _, KeepsText.refl _, KeepsDecimal.refl _, rfl⟩

/-- A written integer register and a response change nothing else. -/
theorem State.setX_complete_onlyX (s : State) (r : XReg) (v : BitVec s.cfg.n) (d : Native) :
    OnlyX [r] s ((s.setX r v).complete d) :=
  ⟨⟨rfl, rfl, rfl⟩, State.setX_keepsX s r v [r] (by simp), KeepsF.refl _ _, KeepsText.refl _, KeepsDecimal.refl _, rfl⟩

/-- A written bfloat register and a response change nothing else. -/
theorem State.setF_complete_onlyF (s : State) (r : FReg) (v : BitVec s.cfg.nf) (d : Native) :
    OnlyF [r] s ((s.setF r v).complete d) :=
  ⟨⟨rfl, rfl, rfl⟩, KeepsX.refl _ _, State.setF_keepsF s r v [r] (by simp), KeepsText.refl _, KeepsDecimal.refl _, rfl⟩

/-- Taking a fault does exactly what R256 says. -/
theorem State.raise_raises (s : State) (c : FaultCause) : Raises c s (s.raise c) where
  response := rfl
  first h := by rw [State.raise_fsr, fcode_recordFirst, if_pos h]
  sticks h := by rw [State.raise_fsr, fcode_recordFirst, if_neg h]
  otherBits k hk := getLsbD_recordFirst s.fsr c.code k hk
  ports := ⟨rfl, rfl, rfl⟩
  xs := KeepsX.refl _ _
  fs := KeepsF.refl _ _
  text := KeepsText.refl _
  decimal := KeepsDecimal.refl _

/-- A stored text changes the cells below the new `CLEN` and nothing else. -/
theorem State.storeText_onlyText (s t : State) (text : List Byte) (h : s.storeText text = some t) :
    OnlyText (· < t.clen) s t := by
  obtain ⟨-, rfl⟩ := (s.storeText_eq_some t text).1 h
  exact ⟨⟨rfl, rfl, rfl⟩, KeepsX.refl _ _, KeepsF.refl _ _,
    fun i hi => memRead_memWriteList_of_outside text s.cb 0 i (.inr (by simpa using hi)), KeepsDecimal.refl _, rfl⟩

/-- An appended character changes the cell at the old `CLEN` and `CLEN`, and nothing else. -/
theorem State.appendChar_onlyText (s t : State) (c : Byte) (h : s.appendChar c = some t) : OnlyText (· = s.clen) s t := by
  obtain ⟨-, rfl⟩ := (s.appendChar_eq_some t c).1 h
  exact ⟨⟨rfl, rfl, rfl⟩, KeepsX.refl _ _, KeepsF.refl _ _, fun i hi => memRead_memWrite_of_ne s.cb s.clen i c hi,
    KeepsDecimal.refl _, rfl⟩

/-- A stored Decimal changes the cells below the new `DLEN`, `DLEN` and `DSIGN`, and nothing else. -/
theorem State.storeDigits_onlyDecimal (s t : State) (sign : Bool) (ds : List Digit) (h : s.storeDigits sign ds = some t) :
    OnlyDecimal s t := by
  obtain ⟨-, rfl⟩ := (s.storeDigits_eq_some t sign ds).1 h
  exact ⟨⟨rfl, rfl, rfl⟩, KeepsX.refl _ _, KeepsF.refl _ _, KeepsText.refl _,
    fun k hk => memRead_memWriteList_of_outside ds s.dm 0 k (.inr (by simpa using hk)), rfl⟩

end Sys2Proof.Machine
end

