-- ==== Sys2Proof/Laws/PerInstr.lean ====
section
/-!
SUPPORT. Families of statements with one lemma per command.
-/

namespace Sys2Proof.Laws

/-- The encoded word of a well-formed command is selected by a row of the opcode table, and its reserved field is zero (R70,
R71, R72). -/
def EncodedWordMatchesRow.Statement (i : Instr) : Prop :=
  i.wellFormed = true → ∃ r ∈ opTable, r.selects (encode i) = true ∧ zeroField (encode i) = 0

/-- What a family lemma shows: its row, and that the row selects the word. -/
theorem EncodedWordMatchesRow.of_row (i : Instr) (k : Nat) (r : OpRow) (hr : opTable[k]? = some r)
    (hs : r.selects (encode i) = true ∧ zeroField (encode i) = 0) : EncodedWordMatchesRow.Statement i :=
  fun _ => ⟨r, List.mem_of_getElem? hr, hs⟩

theorem EncodedWordMatchesRow.ldis (a : XReg) : EncodedWordMatchesRow.Statement (.ldis a) :=
  EncodedWordMatchesRow.of_row _ 0 ⟨"LDIS", .a, 0x01⟩ rfl (by revert a; decide)

theorem EncodedWordMatchesRow.ldiu (a : XReg) : EncodedWordMatchesRow.Statement (.ldiu a) :=
  EncodedWordMatchesRow.of_row _ 1 ⟨"LDIU", .a, 0x02⟩ rfl (by revert a; decide)

theorem EncodedWordMatchesRow.setraw (a : XReg) : EncodedWordMatchesRow.Statement (.setraw a) :=
  EncodedWordMatchesRow.of_row _ 2 ⟨"SETRAW", .a, 0x03⟩ rfl (by revert a; decide)

theorem EncodedWordMatchesRow.mov (a b : XReg) : EncodedWordMatchesRow.Statement (.mov a b) :=
  EncodedWordMatchesRow.of_row _ 3 ⟨"MOV", .ab, 0x04⟩ rfl (by revert a b; decide)

theorem EncodedWordMatchesRow.clr (a : XReg) : EncodedWordMatchesRow.Statement (.clr a) :=
  EncodedWordMatchesRow.of_row _ 4 ⟨"CLR", .a, 0x05⟩ rfl (by revert a; decide)

theorem EncodedWordMatchesRow.stis (a : XReg) : EncodedWordMatchesRow.Statement (.stis a) :=
  EncodedWordMatchesRow.of_row _ 5 ⟨"STIS", .a, 0x06⟩ rfl (by revert a; decide)

theorem EncodedWordMatchesRow.stiu (a : XReg) : EncodedWordMatchesRow.Statement (.stiu a) :=
  EncodedWordMatchesRow.of_row _ 6 ⟨"STIU", .a, 0x07⟩ rfl (by revert a; decide)

theorem EncodedWordMatchesRow.i2d (a : XReg) : EncodedWordMatchesRow.Statement (.i2d a) :=
  EncodedWordMatchesRow.of_row _ 7 ⟨"I2D", .a, 0x08⟩ rfl (by revert a; decide)

theorem EncodedWordMatchesRow.add (a b : XReg) : EncodedWordMatchesRow.Statement (.add a b) :=
  EncodedWordMatchesRow.of_row _ 8 ⟨"ADD", .ab, 0x10⟩ rfl (by revert a b; decide)

theorem EncodedWordMatchesRow.sub (a b : XReg) : EncodedWordMatchesRow.Statement (.sub a b) :=
  EncodedWordMatchesRow.of_row _ 9 ⟨"SUB", .ab, 0x11⟩ rfl (by revert a b; decide)

theorem EncodedWordMatchesRow.mul (a b : XReg) : EncodedWordMatchesRow.Statement (.mul a b) :=
  EncodedWordMatchesRow.of_row _ 10 ⟨"MUL", .ab, 0x12⟩ rfl (by revert a b; decide)

theorem EncodedWordMatchesRow.div (a b : XReg) : EncodedWordMatchesRow.Statement (.div a b) :=
  EncodedWordMatchesRow.of_row _ 11 ⟨"DIV", .ab, 0x13⟩ rfl (by revert a b; decide)

theorem EncodedWordMatchesRow.rem (a b : XReg) : EncodedWordMatchesRow.Statement (.rem a b) :=
  EncodedWordMatchesRow.of_row _ 12 ⟨"REM", .ab, 0x14⟩ rfl (by revert a b; decide)

theorem EncodedWordMatchesRow.divrem (a b c : XReg) : EncodedWordMatchesRow.Statement (.divrem a b c) :=
  EncodedWordMatchesRow.of_row _ 13 ⟨"DIVREM", .abc, 0x15⟩ rfl (by revert a b c; decide)

theorem EncodedWordMatchesRow.neg (a b : XReg) : EncodedWordMatchesRow.Statement (.neg a b) :=
  EncodedWordMatchesRow.of_row _ 14 ⟨"NEG", .ab, 0x16⟩ rfl (by revert a b; decide)

theorem EncodedWordMatchesRow.not (a b : XReg) : EncodedWordMatchesRow.Statement (.not a b) :=
  EncodedWordMatchesRow.of_row _ 15 ⟨"NOT", .ab, 0x17⟩ rfl (by revert a b; decide)

theorem EncodedWordMatchesRow.inc (a : XReg) : EncodedWordMatchesRow.Statement (.inc a) :=
  EncodedWordMatchesRow.of_row _ 16 ⟨"INC", .a, 0x18⟩ rfl (by revert a; decide)

theorem EncodedWordMatchesRow.dec (a : XReg) : EncodedWordMatchesRow.Statement (.dec a) :=
  EncodedWordMatchesRow.of_row _ 17 ⟨"DEC", .a, 0x19⟩ rfl (by revert a; decide)

theorem EncodedWordMatchesRow.shl (a : XReg) : EncodedWordMatchesRow.Statement (.shl a) :=
  EncodedWordMatchesRow.of_row _ 18 ⟨"SHL", .a, 0x20⟩ rfl (by revert a; decide)

theorem EncodedWordMatchesRow.shr (a : XReg) : EncodedWordMatchesRow.Statement (.shr a) :=
  EncodedWordMatchesRow.of_row _ 19 ⟨"SHR", .a, 0x21⟩ rfl (by revert a; decide)

theorem EncodedWordMatchesRow.ceq (a b : XReg) : EncodedWordMatchesRow.Statement (.ceq a b) :=
  EncodedWordMatchesRow.of_row _ 20 ⟨"CEQ", .ab, 0x30⟩ rfl (by revert a b; decide)

theorem EncodedWordMatchesRow.cne (a b : XReg) : EncodedWordMatchesRow.Statement (.cne a b) :=
  EncodedWordMatchesRow.of_row _ 21 ⟨"CNE", .ab, 0x31⟩ rfl (by revert a b; decide)

theorem EncodedWordMatchesRow.clt (a b : XReg) : EncodedWordMatchesRow.Statement (.clt a b) :=
  EncodedWordMatchesRow.of_row _ 22 ⟨"CLT", .ab, 0x32⟩ rfl (by revert a b; decide)

theorem EncodedWordMatchesRow.cgt (a b : XReg) : EncodedWordMatchesRow.Statement (.cgt a b) :=
  EncodedWordMatchesRow.of_row _ 23 ⟨"CGT", .ab, 0x33⟩ rfl (by revert a b; decide)

theorem EncodedWordMatchesRow.cle (a b : XReg) : EncodedWordMatchesRow.Statement (.cle a b) :=
  EncodedWordMatchesRow.of_row _ 24 ⟨"CLE", .ab, 0x34⟩ rfl (by revert a b; decide)

theorem EncodedWordMatchesRow.cge (a b : XReg) : EncodedWordMatchesRow.Statement (.cge a b) :=
  EncodedWordMatchesRow.of_row _ 25 ⟨"CGE", .ab, 0x35⟩ rfl (by revert a b; decide)

theorem EncodedWordMatchesRow.msb (a : XReg) : EncodedWordMatchesRow.Statement (.msb a) :=
  EncodedWordMatchesRow.of_row _ 26 ⟨"MSB", .a, 0x38⟩ rfl (by revert a; decide)

theorem EncodedWordMatchesRow.setb (a : XReg) : EncodedWordMatchesRow.Statement (.setb a) :=
  EncodedWordMatchesRow.of_row _ 27 ⟨"SETB", .a, 0x40⟩ rfl (by revert a; decide)

theorem EncodedWordMatchesRow.rstb (a : XReg) : EncodedWordMatchesRow.Statement (.rstb a) :=
  EncodedWordMatchesRow.of_row _ 28 ⟨"RSTB", .a, 0x41⟩ rfl (by revert a; decide)

theorem EncodedWordMatchesRow.tstb (a : XReg) : EncodedWordMatchesRow.Statement (.tstb a) :=
  EncodedWordMatchesRow.of_row _ 29 ⟨"TSTB", .a, 0x42⟩ rfl (by revert a; decide)

theorem EncodedWordMatchesRow.blkr (a : XReg) : EncodedWordMatchesRow.Statement (.blkr a) :=
  EncodedWordMatchesRow.of_row _ 30 ⟨"BLKR", .a, 0x43⟩ rfl (by revert a; decide)

theorem EncodedWordMatchesRow.b2d (a : XReg) : EncodedWordMatchesRow.Statement (.b2d a) :=
  EncodedWordMatchesRow.of_row _ 31 ⟨"B2D", .a, 0x50⟩ rfl (by revert a; decide)

theorem EncodedWordMatchesRow.tostr (a : XReg) : EncodedWordMatchesRow.Statement (.tostr a) :=
  EncodedWordMatchesRow.of_row _ 32 ⟨"TOSTR", .a, 0x51⟩ rfl (by revert a; decide)

theorem EncodedWordMatchesRow.tobin (a : XReg) : EncodedWordMatchesRow.Statement (.tobin a) :=
  EncodedWordMatchesRow.of_row _ 33 ⟨"TOBIN", .a, 0x52⟩ rfl (by revert a; decide)

theorem EncodedWordMatchesRow.parse (a : XReg) : EncodedWordMatchesRow.Statement (.parse a) :=
  EncodedWordMatchesRow.of_row _ 34 ⟨"PARSE", .a, 0x53⟩ rfl (by revert a; decide)

theorem EncodedWordMatchesRow.cbrst : EncodedWordMatchesRow.Statement (.cbrst) :=
  EncodedWordMatchesRow.of_row _ 35 ⟨"CBRST", .z, 0x54⟩ rfl (by decide)

theorem EncodedWordMatchesRow.cbput : EncodedWordMatchesRow.Statement (.cbput) :=
  EncodedWordMatchesRow.of_row _ 36 ⟨"CBPUT", .z, 0x55⟩ rfl (by decide)

theorem EncodedWordMatchesRow.cbget : EncodedWordMatchesRow.Statement (.cbget) :=
  EncodedWordMatchesRow.of_row _ 37 ⟨"CBGET", .z, 0x56⟩ rfl (by decide)

theorem EncodedWordMatchesRow.dmget : EncodedWordMatchesRow.Statement (.dmget) :=
  EncodedWordMatchesRow.of_row _ 38 ⟨"DMGET", .z, 0x57⟩ rfl (by decide)

theorem EncodedWordMatchesRow.fenc (a : FReg) : EncodedWordMatchesRow.Statement (.fenc a) :=
  EncodedWordMatchesRow.of_row _ 39 ⟨"FENC", .a, 0x60⟩ rfl (by revert a; decide)

theorem EncodedWordMatchesRow.fdec (a : FReg) : EncodedWordMatchesRow.Statement (.fdec a) :=
  EncodedWordMatchesRow.of_row _ 40 ⟨"FDEC", .a, 0x61⟩ rfl (by revert a; decide)

theorem EncodedWordMatchesRow.fsetz (a : FReg) : EncodedWordMatchesRow.Statement (.fsetz a) :=
  EncodedWordMatchesRow.of_row _ 41 ⟨"FSETZ", .a, 0x62⟩ rfl (by revert a; decide)

theorem EncodedWordMatchesRow.fsetinf (a : FReg) : EncodedWordMatchesRow.Statement (.fsetinf a) :=
  EncodedWordMatchesRow.of_row _ 42 ⟨"FSETINF", .a, 0x63⟩ rfl (by revert a; decide)

theorem EncodedWordMatchesRow.fsetnan (a : FReg) : EncodedWordMatchesRow.Statement (.fsetnan a) :=
  EncodedWordMatchesRow.of_row _ 43 ⟨"FSETNAN", .a, 0x64⟩ rfl (by revert a; decide)

theorem EncodedWordMatchesRow.fclass (a : FReg) : EncodedWordMatchesRow.Statement (.fclass a) :=
  EncodedWordMatchesRow.of_row _ 44 ⟨"FCLASS", .a, 0x65⟩ rfl (by revert a; decide)

theorem EncodedWordMatchesRow.fmvx (a : FReg) : EncodedWordMatchesRow.Statement (.fmvx a) :=
  EncodedWordMatchesRow.of_row _ 45 ⟨"FMVX", .a, 0x66⟩ rfl (by revert a; decide)

theorem EncodedWordMatchesRow.fmxv (a : FReg) : EncodedWordMatchesRow.Statement (.fmxv a) :=
  EncodedWordMatchesRow.of_row _ 46 ⟨"FMXV", .a, 0x67⟩ rfl (by revert a; decide)

theorem EncodedWordMatchesRow.fadd (a b : FReg) : EncodedWordMatchesRow.Statement (.fadd a b) :=
  EncodedWordMatchesRow.of_row _ 47 ⟨"FADD", .ab, 0x68⟩ rfl (by revert a b; decide)

theorem EncodedWordMatchesRow.fsub (a b : FReg) : EncodedWordMatchesRow.Statement (.fsub a b) :=
  EncodedWordMatchesRow.of_row _ 48 ⟨"FSUB", .ab, 0x69⟩ rfl (by revert a b; decide)

theorem EncodedWordMatchesRow.fmul (a b : FReg) : EncodedWordMatchesRow.Statement (.fmul a b) :=
  EncodedWordMatchesRow.of_row _ 49 ⟨"FMUL", .ab, 0x6A⟩ rfl (by revert a b; decide)

theorem EncodedWordMatchesRow.fdiv (a b : FReg) : EncodedWordMatchesRow.Statement (.fdiv a b) :=
  EncodedWordMatchesRow.of_row _ 50 ⟨"FDIV", .ab, 0x6B⟩ rfl (by revert a b; decide)

theorem EncodedWordMatchesRow.csrr : EncodedWordMatchesRow.Statement (.csrr) :=
  EncodedWordMatchesRow.of_row _ 51 ⟨"CSRR", .z, 0x70⟩ rfl (by decide)

theorem EncodedWordMatchesRow.clrf : EncodedWordMatchesRow.Statement (.clrf) :=
  EncodedWordMatchesRow.of_row _ 52 ⟨"CLRF", .z, 0x71⟩ rfl (by decide)

end Sys2Proof.Laws
end

