-- ==== Sys2Proof/Tests/Slice0.lean ====
section
/-!
SUPPORT. Tests on fixed values: the well-formedness check, decoding of words written out from the spec's encoding, one step of
every command with the result that spec/95_test_vectors.md or the command's own rule gives, and for every statement with hypotheses
a witness that meets them.
-/

namespace Sys2Proof.Machine

/-! ## Well-formedness -/

/-- R163: `DIVREM x0, x1, x0` is no command. -/
theorem test_divrem_same_destination_ill_formed : Instr.wellFormed (.divrem 0 1 0) = false := by decide

/-- R163: `DIVREM` with quotient and remainder in different registers is one. -/
theorem test_divrem_distinct_destinations_well_formed :
    Instr.wellFormed (.divrem 0 0 1) = true ∧ Instr.wellFormed (.divrem 0 1 1) = true := by decide

/-! ## Decoding: every command's word, its bits written out from R70, R71 and R73 as `zero_C_B_A_op` -/

theorem test_decode_integer :
    decode 0b000000000000000_000_000_101_00000001#32 = .ok (.ldis 5) ∧
    decode 0b000000000000000_000_000_010_00000010#32 = .ok (.ldiu 2) ∧
    decode 0b000000000000000_000_000_111_00000011#32 = .ok (.setraw 7) ∧
    decode 0b000000000000000_000_110_001_00000100#32 = .ok (.mov 1 6) ∧
    decode 0b000000000000000_000_000_100_00000101#32 = .ok (.clr 4) ∧
    decode 0b000000000000000_000_000_011_00000110#32 = .ok (.stis 3) ∧
    decode 0b000000000000000_000_000_110_00000111#32 = .ok (.stiu 6) ∧
    decode 0b000000000000000_000_000_101_00001000#32 = .ok (.i2d 5) := by decide

theorem test_decode_integer_more :
    decode 0b000000000000000_000_111_010_00010000#32 = .ok (.add 2 7) ∧
    decode 0b000000000000000_000_100_111_00010001#32 = .ok (.sub 7 4) ∧
    decode 0b000000000000000_000_110_001_00010010#32 = .ok (.mul 1 6) ∧
    decode 0b000000000000000_000_010_101_00010110#32 = .ok (.neg 5 2) ∧
    decode 0b000000000000000_000_111_010_00010111#32 = .ok (.not 2 7) ∧
    decode 0b000000000000000_000_000_111_00011000#32 = .ok (.inc 7) ∧
    decode 0b000000000000000_000_000_001_00011001#32 = .ok (.dec 1) := by decide

theorem test_decode_division :
    decode 0b000000000000000_000_011_100_00010011#32 = .ok (.div 4 3) ∧
    decode 0b000000000000000_000_101_011_00010100#32 = .ok (.rem 3 5) ∧
    decode 0b000000000000000_100_001_110_00010101#32 = .ok (.divrem 6 1 4) := by decide

theorem test_decode_shift_compare_bits :
    decode 0b000000000000000_000_000_100_00100000#32 = .ok (.shl 4) ∧
    decode 0b000000000000000_000_000_011_00100001#32 = .ok (.shr 3) ∧
    decode 0b000000000000000_000_001_110_00110000#32 = .ok (.ceq 6 1) ∧
    decode 0b000000000000000_000_010_101_00110001#32 = .ok (.cne 5 2) ∧
    decode 0b000000000000000_000_111_010_00110010#32 = .ok (.clt 2 7) ∧
    decode 0b000000000000000_000_100_111_00110011#32 = .ok (.cgt 7 4) ∧
    decode 0b000000000000000_000_110_001_00110100#32 = .ok (.cle 1 6) ∧
    decode 0b000000000000000_000_011_100_00110101#32 = .ok (.cge 4 3) := by decide

theorem test_decode_shift_compare_bits_more :
    decode 0b000000000000000_000_000_011_00111000#32 = .ok (.msb 3) ∧
    decode 0b000000000000000_000_000_110_01000000#32 = .ok (.setb 6) ∧
    decode 0b000000000000000_000_000_101_01000001#32 = .ok (.rstb 5) ∧
    decode 0b000000000000000_000_000_010_01000010#32 = .ok (.tstb 2) ∧
    decode 0b000000000000000_000_000_111_01000011#32 = .ok (.blkr 7) := by decide

theorem test_decode_decimal_text :
    decode 0b000000000000000_000_000_001_01010000#32 = .ok (.b2d 1) ∧
    decode 0b000000000000000_000_000_100_01010001#32 = .ok (.tostr 4) ∧
    decode 0b000000000000000_000_000_011_01010010#32 = .ok (.tobin 3) ∧
    decode 0b000000000000000_000_000_110_01010011#32 = .ok (.parse 6) ∧
    decode 0b000000000000000_000_000_000_01010100#32 = .ok .cbrst ∧
    decode 0b000000000000000_000_000_000_01010101#32 = .ok .cbput ∧
    decode 0b000000000000000_000_000_000_01010110#32 = .ok .cbget ∧
    decode 0b000000000000000_000_000_000_01010111#32 = .ok .dmget := by decide

theorem test_decode_bfloat :
    decode 0b000000000000000_000_000_100_01100000#32 = .ok (.fenc 4) ∧
    decode 0b000000000000000_000_000_011_01100001#32 = .ok (.fdec 3) ∧
    decode 0b000000000000000_000_000_110_01100010#32 = .ok (.fsetz 6) ∧
    decode 0b000000000000000_000_000_101_01100011#32 = .ok (.fsetinf 5) ∧
    decode 0b000000000000000_000_000_010_01100100#32 = .ok (.fsetnan 2) ∧
    decode 0b000000000000000_000_000_111_01100101#32 = .ok (.fclass 7) ∧
    decode 0b000000000000000_000_000_001_01100110#32 = .ok (.fmvx 1) ∧
    decode 0b000000000000000_000_000_100_01100111#32 = .ok (.fmxv 4) := by decide

theorem test_decode_bfloat_more :
    decode 0b000000000000000_000_101_011_01101000#32 = .ok (.fadd 3 5) ∧
    decode 0b000000000000000_000_001_110_01101001#32 = .ok (.fsub 6 1) ∧
    decode 0b000000000000000_000_010_101_01101010#32 = .ok (.fmul 5 2) ∧
    decode 0b000000000000000_000_111_010_01101011#32 = .ok (.fdiv 2 7) := by decide

theorem test_decode_system :
    decode 0b000000000000000_000_000_000_01110000#32 = .ok .csrr ∧
    decode 0b000000000000000_000_000_000_01110001#32 = .ok .clrf := by decide

/-- 95 §2.1: words that each step of R79 rejects, in its order. -/
theorem test_decode_rejects :
    decode 0x00000000#32 = .error .reservedOpcode ∧ decode 0x00020010#32 = .error .reservedFieldSet ∧
    decode 0x80000005#32 = .error .reservedFieldSet ∧ decode 0x00000801#32 = .error .unusedFieldSet ∧
    decode 0x00004010#32 = .error .unusedFieldSet ∧ decode 0x00000154#32 = .error .unusedFieldSet ∧
    decode 0x00000072#32 = .error .reservedOpcode ∧ decode 0x0001FF15#32 = .error .divremSameDestination := by decide

/-- spec/opcode_table.json's numbering: the operand bits above the word take no part. -/
theorem test_decodeTableWord :
    decodeTableWord 32 0x00000810 = some (.add 0 1) ∧ decodeTableWord 96 0xFFFFFFFF00002E04 = some (.mov 6 5) ∧
    decodeTableWord 32 0x72 = none := by decide

/-! ## One step -/

/-- A reset unit with integer width `n`, in bfloat format `NF = 16`, `E = 8`, with the least buffer R7 allows. -/
def unitOf (n : Nat) : State := State.resetWith { n := n, nf := 16, e := 8, cbSize := n + 2 }

/-- `x[0]` and `x[1]` hold the two patterns. -/
def State.holding (s : State) (v0 v1 : Nat) : State := { s with x := (s.x.set 0 v0).set 1 v1 }

/-- `f[0]` holds the pattern. -/
def State.holdingF (s : State) (p : Nat) : State := { s with f := s.f.set 0 p }

/-- `CB` holds the text. -/
def State.holdingText (s : State) (text : List Byte) : State :=
  { s with cb := memWriteList [] 0 text, clen := text.length }

/-- The next state a result answers, if it answers one. -/
def nextOf : Result → Option State
  | .next t => some t
  | _ => none

/-- The state after the command `cw`, `din` is presented and run. -/
def State.after (s : State) (cw : CmdWord) (din : Native) : Option State :=
  nextOf (step { s with pending := [.present { cw := cw, din := din }] })

/-- `dout` of the response, with its fault code. -/
def State.answers (s : State) (cw : CmdWord) (din : Native) : Option (Nat × Nat) :=
  ((s.after cw din).bind fun t => t.rsp).map fun r => (r.fault.toNat, r.dout.toNat)

/-- Fault code and `x[k]` after the command. -/
def State.leaves (s : State) (cw : CmdWord) (din : Native) (k : Fin 8) : Option (Nat × Nat) :=
  (s.after cw din).bind fun t => t.rsp.map fun r => (r.fault.toNat, t.x[k.val])

/-- Fault code and `f[0]` after the command. -/
def State.leavesF (s : State) (cw : CmdWord) (din : Native) : Option (Nat × Nat) :=
  (s.after cw din).bind fun t => t.rsp.map fun r => (r.fault.toNat, t.f[0])

/-- The text, the digits, the sign flag after the command. -/
def State.leavesText (s : State) (cw : CmdWord) (din : Native) : Option (Option (List Byte) × List Nat × Bool) :=
  (s.after cw din).map fun t => (t.text, (memReadList t.dm 0 t.dlen).map BitVec.toNat, t.dsign)

/-! ### 95 §2.2 and §2.3: loads and stores -/

theorem test_ldis : (unitOf 8).leaves 0x00000101#32 0x1234#64 1 = some (0, 0x34) ∧
    (unitOf 72).leaves 0x00000001#32 0xFFFFFFFFFFFFFFFE#64 0 = some (0, 0xFFFFFFFFFFFFFFFFFE) := by decide

theorem test_ldiu : (unitOf 8).leaves 0x00000402#32 0x180#64 4 = some (0, 0x80) ∧
    (unitOf 72).leaves 0x00000102#32 0xFFFFFFFFFFFFFFFE#64 1 = some (0, 0x00FFFFFFFFFFFFFFFE) := by decide

theorem test_setraw : (unitOf 8).leaves 0x00000503#32 0xFFFFFFFFFFFFFF80#64 5 = some (0, 0x80) := by decide

theorem test_mov_clr : ((unitOf 8).holding 0 0x80).leaves 0x00000804#32 0#64 0 = some (0, 0x80) ∧
    ((unitOf 8).holding 0xFF 0).leaves 0x00000005#32 0#64 0 = some (0, 0) := by decide

theorem test_stis : ((unitOf 8).holding 0x80 0).answers 0x00000006#32 0#64 = some (0, 0xFFFFFFFFFFFFFF80) ∧
    ((unitOf 72).holding 0xFFFFFFFFFFFFFFFE00 0).answers 0x00000006#32 0#64 = some (0, 0xFFFFFFFFFFFFFE00) := by decide

theorem test_stiu : ((unitOf 8).holding 0x80 0).answers 0x00000007#32 0#64 = some (0, 0x80) ∧
    ((unitOf 72).holding 0 0x00FFFFFFFFFFFFFFFE).answers 0x00000107#32 0#64 = some (0, 0xFFFFFFFFFFFFFFFE) := by decide

/-! ### 95 §2.4 -/

theorem test_i2d_tie : ((unitOf 64).holding 0x0020000000000001 0).answers 0x00000008#32 0#64 = some (0, 0x4340000000000000) := by
  decide

theorem test_i2d_carry :
    ((unitOf 64).holding 0x7FFFFFFFFFFFFFFF 0).answers 0x00000008#32 0#64 = some (0, 0x43E0000000000000) := by decide

/-! ### 95 §2.5 and §2.6: adder, subtractor, multiplier -/

theorem test_add : ((unitOf 8).holding 0x7F 1).leaves 0x00000810#32 0#64 0 = some (0, 0x80) ∧
    ((unitOf 8).holding 0x64 0).leaves 0x00000010#32 0#64 0 = some (0, 0xC8) := by decide

theorem test_sub : ((unitOf 8).holding 0x00 0x80).leaves 0x00000811#32 0#64 0 = some (0, 0x80) ∧
    ((unitOf 8).holding 5 7).leaves 0x00000811#32 0#64 0 = some (0, 0xFE) := by decide

theorem test_mul : ((unitOf 8).holding 0xFD 7).leaves 0x00000812#32 0#64 0 = some (0, 0xEB) ∧
    ((unitOf 8).holding 0x0D 0).leaves 0x00000012#32 0#64 0 = some (0, 0xA9) := by decide

theorem test_neg : ((unitOf 8).holding 0 0x80).leaves 0x00000816#32 0#64 0 = some (0, 0x80) ∧
    ((unitOf 8).holding 0 5).leaves 0x00000816#32 0#64 0 = some (0, 0xFB) := by decide

theorem test_not : ((unitOf 12).holding 0 0).leaves 0x00000817#32 0#64 0 = some (0, 0xFFF) := by decide

theorem test_inc_dec : ((unitOf 8).holding 0xFF 0).leaves 0x00000018#32 0#64 0 = some (0, 0) ∧
    ((unitOf 8).holding 0 0).leaves 0x00000019#32 0#64 0 = some (0, 0xFF) := by decide

/-- 95 §1.3 S-7: the block adder's carry and last-block mask, `N = 12`. -/
theorem test_addBlocks : addBlocks 0x0FF#12 0x001#12 = [0x00#8, 0x01#8] ∧ addBlocks 0xFFF#12 0xFFF#12 = [0xFE#8, 0x0F#8] := by
  decide

/-! ### 95 §2.8 and §2.9: shifter -/

theorem test_shl : ((unitOf 8).holding 0x81 0).leaves 0x00000020#32 1#64 0 = some (0, 0x02) ∧
    ((unitOf 8).holding 0x81 0).leaves 0x00000020#32 0xFFFFFFFFFFFFFFFF#64 0 = some (0, 0xC0) := by decide

theorem test_shr : ((unitOf 20).holding 0xABCDE 0).leaves 0x00000021#32 4#64 0 = some (0, 0xFABCD) ∧
    ((unitOf 8).holding 0x81 0).leaves 0x00000021#32 8#64 0 = some (0, 0xFF) := by decide

/-! ### 95 §2.10 and §2.11: `-128` against `127`, and `MSB` -/

theorem test_ceq_cne : ((unitOf 8).holding 0x80 0x7F).answers 0x00000830#32 0#64 = some (0, 0) ∧
    ((unitOf 8).holding 0x80 0x7F).answers 0x00000831#32 0#64 = some (0, 1) := by decide

theorem test_clt_cgt : ((unitOf 8).holding 0x80 0x7F).answers 0x00000832#32 0#64 = some (0, 1) ∧
    ((unitOf 8).holding 0x80 0x7F).answers 0x00000833#32 0#64 = some (0, 0) := by decide

theorem test_cle_cge : ((unitOf 8).holding 5 5).answers 0x00000834#32 0#64 = some (0, 1) ∧
    ((unitOf 8).holding 0x80 0x7F).answers 0x00000835#32 0#64 = some (0, 0) := by decide

theorem test_msb : ((unitOf 8).holding 0 0).answers 0x00000038#32 0#64 = some (0, 0xFFFFFFFFFFFFFFFF) ∧
    ((unitOf 8).holding 0x80 0).answers 0x00000038#32 0#64 = some (0, 7) := by decide

/-! ### 95 §2.12: bits and blocks, `N = 12` -/

theorem test_setb : ((unitOf 12).holding 0x800 0).leaves 0x00000040#32 0#64 0 = some (0, 0x801) ∧
    ((unitOf 12).holding 0x001 0).leaves 0x00000040#32 12#64 0 = some (3, 0x001) := by decide

theorem test_rstb : ((unitOf 12).holding 0x801 0).leaves 0x00000041#32 11#64 0 = some (0, 0x001) ∧
    ((unitOf 12).holding 0x001 0).leaves 0x00000041#32 0x000000010000000B#64 0 = some (3, 0x001) := by decide

theorem test_tstb : ((unitOf 12).holding 0x801 0).answers 0x00000042#32 11#64 = some (0, 1) ∧
    ((unitOf 12).holding 0x001 0).answers 0x00000042#32 0x8000000000000000#64 = some (3, 0) := by decide

theorem test_blkr : ((unitOf 12).holding 0x123 0).answers 0x00000043#32 1#64 = some (0, 1) ∧
    ((unitOf 12).holding 0x123 0).answers 0x00000043#32 2#64 = some (3, 0) := by decide

/-! ### 95 §2.13 and §2.14: division -/

theorem test_div : ((unitOf 8).holding 9 4).leaves 0x00000813#32 0#64 0 = some (0, 2) ∧
    ((unitOf 8).holding 0 0).leaves 0x00000813#32 0#64 0 = some (2, 0) := by decide

theorem test_rem : ((unitOf 8).holding 0xF7 4).leaves 0x00000814#32 0#64 0 = some (0, 0xFF) ∧
    ((unitOf 8).holding 5 0).leaves 0x00000814#32 0#64 0 = some (2, 5) := by decide

set_option maxRecDepth 2000 in
theorem test_divrem : ((unitOf 8).holding 0xF9 2).leaves 0x00008815#32 0#64 0 = some (0, 0xFD) ∧
    ((unitOf 16).holding 0x8000 3).leaves 0x00008815#32 0#64 2 = some (0, 0xFFFE) := by decide

/-! ### 95 §2.15 to §2.17: texts -/

/-- `"-26"`. -/
theorem test_parse_decimal : ((unitOf 16).holdingText [0x2D#8, 0x32#8, 0x36#8]).leaves 0x00000353#32 0#64 3 = some (0, 0xFFE6) := by
  decide

/-- `"0x1A"`, and `"5 "` which fails without a fault. -/
theorem test_parse_hexadecimal_and_failure :
    ((unitOf 16).holdingText [0x30#8, 0x78#8, 0x31#8, 0x41#8]).leaves 0x00000353#32 0#64 3 = some (0, 0x1A) ∧
    ((unitOf 16).holdingText [0x35#8, 0x20#8]).answers 0x00000353#32 0#64 = some (0, 0) := by decide

set_option maxRecDepth 4000 in
/-- `-128` at `N = 8`. -/
theorem test_tostr :
    ((unitOf 8).holding 0x80 0).leavesText 0x00000051#32 0#64 = some (some [0x2D#8, 0x31#8, 0x32#8, 0x38#8], [8, 2, 1], true) := by
  decide

set_option maxRecDepth 4000 in
theorem test_b2d : ((unitOf 8).holding 156 0).leavesText 0x00000050#32 0#64 = some (some [], [0, 0, 1], true) := by decide

theorem test_tobin :
    ((unitOf 3).holding 5 0).leavesText 0x00000052#32 0#64 = some (some [0x31#8, 0x30#8, 0x31#8], [0], false) := by decide

/-! ### 95 §2.18: buffers, control and status registers -/

theorem test_cbput : (unitOf 8).leavesText 0x00000055#32 0x139#64 = some (some [0x39#8], [0], false) ∧
    ((unitOf 1).holdingText [0x39#8, 0x31#8, 0x32#8]).answers 0x00000055#32 0x33#64 = some (5, 0) := by decide

theorem test_cbrst : ((unitOf 8).holdingText [0x39#8]).leavesText 0x00000054#32 0#64 = some (some [], [0], false) := by decide

theorem test_cbget : ((unitOf 8).holdingText [0x39#8]).answers 0x00000056#32 0#64 = some (0, 0x39) ∧
    (unitOf 8).answers 0x00000056#32 0#64 = some (3, 0) := by decide

theorem test_dmget : (unitOf 8).answers 0x00000057#32 0#64 = some (0, 0) ∧
    (unitOf 8).answers 0x00000057#32 1#64 = some (3, 0) := by decide

theorem test_csrr : { unitOf 8 with fsr := 0x105#64 }.answers 0x00000070#32 4#64 = some (0, 0x105) ∧
    (unitOf 8).answers 0x00000070#32 8#64 = some (1, 0) := by decide

theorem test_clrf : ({ unitOf 8 with fsr := 0x105#64 }.after 0x00000071#32 0#64).map State.fsr = some 0#64 := by decide

/-- R256: the first code sticks; `pf` is kept. -/
theorem test_first_fault_sticks : ({ unitOf 8 with fsr := 0x102#64 }.after 0x00000056#32 0#64).map State.fsr = some 0x102#64 ∧
    ({ unitOf 8 with fsr := 0x100#64 }.after 0x00000056#32 0#64).map State.fsr = some 0x103#64 := by decide

/-! ### 95 §2.19: bfloat<16,8> -/

theorem test_fenc_rounds_up : (unitOf 8).leavesF 0x00000060#32 0x3FB999999999999A#64 = some (0, 0x3DCD) := by decide

theorem test_fenc_saturates_and_flushes : (unitOf 8).leavesF 0x00000060#32 0x47FFB00000000000#64 = some (0, 0x7FFD) ∧
    (unitOf 8).leavesF 0x00000060#32 0xB730000000000000#64 = some (0, 0x8000) := by decide

theorem test_fdec : ((unitOf 8).holdingF 0x3DCD).answers 0x00000061#32 0#64 = some (0, 0x3FB9A00000000000) ∧
    ((unitOf 8).holdingF 0x0001).answers 0x00000061#32 0#64 = some (0, 0x37A0000000000000) := by decide

theorem test_fsetz_fsetinf : ((unitOf 8).holdingF 0x7FFF).leavesF 0x00000062#32 0#64 = some (0, 0) ∧
    (unitOf 8).leavesF 0x00000063#32 3#64 = some (0, 0xFFFE) := by decide

theorem test_fsetnan : (unitOf 8).leavesF 0x00000064#32 2#64 = some (0, 0x7FFF) ∧
    (unitOf 8).leavesF 0x00000064#32 1#64 = some (0, 0xFFFF) := by decide

theorem test_fclass : ((unitOf 8).holdingF 0xC020).answers 0x00000065#32 0#64 = some (0, 18) ∧
    ((unitOf 8).holdingF 0xFFFF).answers 0x00000065#32 0#64 = some (0, 21) := by decide

theorem test_fmvx_fmxv : (unitOf 8).leavesF 0x00000066#32 0x12345#64 = some (0, 0x2345) ∧
    ((unitOf 8).holdingF 0x2345).answers 0x00000067#32 0#64 = some (0, 0x2345) := by decide

/-- 95 §2.1: `FADD` decodes and raises `Unsupported`; so do the three others. -/
theorem test_bfloat_arithmetic_rejected : (unitOf 8).answers 0x00000868#32 0#64 = some (4, 0) ∧
    (unitOf 8).answers 0x00000869#32 0#64 = some (4, 0) ∧ (unitOf 8).answers 0x0000086A#32 0#64 = some (4, 0) ∧
    (unitOf 8).answers 0x0000086B#32 0#64 = some (4, 0) := by decide

/-- 95 §2.1: an undecodable word takes the fault `IllegalCommand`. -/
theorem test_illegal_word : (unitOf 8).answers 0#32 0#64 = some (1, 0) ∧
    ((unitOf 8).after 0#32 0#64).map State.fsr = some 1#64 := by decide

/-- The first step after reset runs the word placed. -/
theorem test_withFetchWord :
    (nextOf (step (State.reset.withFetchWord 96 (0x02 + 5 * 2 ^ 32)))).map (·.x[0]) = some 5 := by decide

/-! ## Witnesses: for every statement with hypotheses, values that meet them together

`witness_<name>` belongs to the statement `Obligations.<name>`; several clauses have several values, at the ends of their ranges. -/

/-- A unit in mid-use: registers, a text, a negative Decimal, a recorded fault, and a move to come. -/
def busy (move : HostMove) : State :=
  { unitOf 8 with
    x := #v[7, 254, 0, 255, 128, 1, 85, 3]
    f := #v[0x3F80, 0xFFFF, 0, 0x7FFE, 1, 0x8000, 0x7FFD, 0xC020]
    cb := [(0, 0x2D#8), (1, 0x31#8), (2, 0x32#8)]
    clen := 3
    dm := [(1, 1#4)]
    dlen := 2
    dsign := true
    fsr := 0x102#64
    pending := [move, .reset]
    din := 5#64
    rsp := some { fault := 2#4, dout := 0#64 } }

/-- A result that has a next state answers it. -/
theorem exists_next_of_isSome (r : Result) (h : (nextOf r).isSome = true) : ∃ t, r = .next t := by
  cases r with
  | next t => exact ⟨t, rfl⟩
  | fault _ => cases h
  | refused _ => cases h

/-- `busy` has the invariant, whatever the host does next. -/
theorem busy_inv (move : HostMove) : (busy move).Inv where
  inRange := (by decide : (busy .reset).cfg.InRange)
  xMasked := (by decide : ∀ r, (busy .reset).xpat r < 2 ^ (busy .reset).cfg.n)
  fMasked := (by decide : ∀ r, (busy .reset).fpat r < 2 ^ (busy .reset).cfg.nf)
  cbWf := (by decide : Memory.wf (w := 8) (busy .reset).cb = true ∧ Memory.below (w := 8) 10 (busy .reset).cb = true)
  clenBound := (by decide : (busy .reset).clen ≤ (busy .reset).cfg.cbSize)
  dmWf := (by decide : Memory.wf (busy .reset).dm = true ∧ Memory.below 8 (busy .reset).dm = true)
  dlenBound := (by decide : 1 ≤ (busy .reset).dlen ∧ (busy .reset).dlen ≤ (busy .reset).cfg.n)
  decimalNormalised := (by decide : (busy .reset).decimal.normalised = true)
  fsrLegal := (by decide : reservedFsrZero (busy .reset).fsr = true ∧ (fcode (busy .reset).fsr).toNat ≤ 5)

theorem witness_InvariantHoldsAtReset :
    Config.InRange { n := 1, nf := 5, e := 2, cbSize := 3 } ∧ Config.InRange { n := 1024, nf := 63, e := 10, cbSize := 1026 } := by
  decide

theorem witness_EveryStepKeepsTheInvariant :
    (busy (.present { cw := 0x51#32, din := 0#64 })).Inv ∧
    ∃ t, step (busy (.present { cw := 0x51#32, din := 0#64 })) = .next t :=
  ⟨busy_inv _, exists_next_of_isSome _ (by decide)⟩

theorem witness_StepRunsTheDecodedCommand :
    (busy (.present { cw := 0x810#32, din := 9#64 })).cfg.InRange ∧
    (busy (.present { cw := 0x810#32, din := 9#64 })).pending = .present { cw := 0x810#32, din := 9#64 } :: [.reset] ∧
    decode 0x810#32 = .ok (.add 0 1) := ⟨(busy_inv _).inRange, rfl, by decide⟩

theorem witness_UndecodableWordRaisesIllegalCommand :
    (busy (.present { cw := 0x72#32, din := 9#64 })).cfg.InRange ∧
    (busy (.present { cw := 0x72#32, din := 9#64 })).pending = .present { cw := 0x72#32, din := 9#64 } :: [.reset] ∧
    decode 0x72#32 = .error .reservedOpcode := ⟨(busy_inv _).inRange, rfl, by decide⟩

theorem witness_StepWithoutACommand :
    ((busy .reset).cfg.InRange ∧ (busy .reset).pending = .reset :: [.reset]) ∧
    ((unitOf 8).cfg.InRange ∧ (unitOf 8).pending = []) ∧ ¬(unitOf 0).cfg.InRange :=
  ⟨⟨(busy_inv _).inRange, rfl⟩, by decide, by decide⟩

theorem witness_DecodeOfEncodeIsTheCommand :
    Instr.wellFormed (.divrem 7 7 0) = true ∧ Instr.wellFormed (.fdiv 7 7) = true ∧ Instr.wellFormed .clrf = true := by decide

theorem witness_EncodeOfDecodeIsTheWord : decode 0x0000F815#32 = .ok (.divrem 0 7 3) ∧ decode 0x00000071#32 = .ok .clrf := by
  decide

theorem witness_DecoderAcceptsExactlyTheTableRows :
    (busy (.present { cw := 0x815#32, din := 0#64 })).cfg.InRange ∧
    (busy (.present { cw := 0x815#32, din := 0#64 })).pending = .present { cw := 0x815#32, din := 0#64 } :: [.reset] :=
  ⟨(busy_inv _).inRange, rfl⟩

theorem witness_EveryPresentedCommandIsAnswered :
    (busy (.present { cw := 0x13#32, din := 0#64 })).Inv ∧
    (busy (.present { cw := 0x13#32, din := 0#64 })).pending = .present { cw := 0x13#32, din := 0#64 } :: [.reset] :=
  ⟨busy_inv _, rfl⟩

theorem witness_FaultingCommandChangesOnlyTheFaultStatus :
    exec (.div 0 2) (busy .reset) = .next ((busy .reset).raise .divideByZero) ∧
    ((busy .reset).raise .divideByZero).rsp = some { fault := 2#4, dout := 0#64 } ∧ (2#4 : BitVec 4) ≠ 0#4 :=
  ⟨rfl, rfl, by decide⟩

theorem witness_FaultStatusNeverGatesExecution :
    (busy .reset).din ≠ 4#64 ∧ (∃ t, exec .csrr (busy .reset) = .next t) ∧ ∃ t, exec (.add 0 1) (busy .reset) = .next t :=
  ⟨by decide, ⟨_, rfl⟩, ⟨_, rfl⟩⟩

theorem witness_FaultStatusHasThreeWriters :
    (∃ t, exec .clrf (busy .reset) = .next t) ∧ (∃ t, exec (.parse 0) (busy .reset) = .next t) ∧
    ∃ t, exec (.div 0 2) (busy .reset) = .next t :=
  ⟨⟨_, rfl⟩, exists_next_of_isSome _ (by decide), ⟨_, rfl⟩⟩

/-- Both ways back to 0: reset and `CLRF`. -/
theorem witness_FaultCodeStaysUntilClearedOrReset :
    (∃ t, step (busy .reset) = .next t ∧ fcode (busy .reset).fsr ≠ 0#4 ∧ fcode t.fsr ≠ fcode (busy .reset).fsr) ∧
    ∃ t, step (busy (.present { cw := 0x71#32, din := 0#64 })) = .next t ∧ fcode (busy .reset).fsr ≠ 0#4 ∧
      fcode t.fsr ≠ fcode (busy .reset).fsr :=
  ⟨⟨_, rfl, by decide, by decide⟩, ⟨((busy .reset).accept [.reset] 0#64).clearFaults.complete 0#64, rfl, by decide, by decide⟩⟩

theorem witness_ConfigurationNeverChanges : ∃ t, step (busy .reset) = .next t := exists_next_of_isSome _ (by decide)

theorem witness_OnlyTheListedCommandsWriteEachState :
    (∃ t, exec (.divrem 0 1 2) (busy .reset) = .next t) ∧ writesText (.divrem 0 1 2) = false ∧
    writesDecimal (.divrem 0 1 2) = false :=
  ⟨exists_next_of_isSome _ (by decide), rfl, rfl⟩

/-- Both sides of the port width, and the width itself. -/
theorem witness_StoreNativeExtendsOrTruncates : 64 ≤ (unitOf 64).cfg.n ∧ (unitOf 64).cfg.n ≤ 64 ∧ (unitOf 1).cfg.n ≤ 64 ∧
    64 ≤ (unitOf 65).cfg.n := by decide

/-- The value 0, the last integer that is always exact, and the most negative one. -/
theorem witness_IntegerToDoubleRoundsToNearestEven :
    ((unitOf 8).xreg 0).toInt = 0 ∧ (((unitOf 64).holding (2 ^ 53) 0).xreg 0).toInt.natAbs = 2 ^ 53 ∧
    (((unitOf 64).holding (2 ^ 63) 0).xreg 0).toInt = -2 ^ 63 ∧ 64 ≤ (unitOf 64).cfg.n := by decide

theorem witness_SubtractUndoesAdd : (0 : XReg) ≠ 1 ∧ (busy .reset).xpat 0 < 2 ^ (busy .reset).cfg.n := by decide

/-- Amounts 0 and -1, where the clauses meet, and the two ends of the port's range. -/
theorem witness_ShiftsMultiplyOrFloorDivide :
    0 ≤ { unitOf 8 with din := 0#64 }.din.toInt ∧ { unitOf 8 with din := 0xFFFFFFFFFFFFFFFF#64 }.din.toInt = -1 ∧
    { unitOf 8 with din := 0x8000000000000000#64 }.din.toInt < 0 ∧
    0 ≤ { unitOf 8 with din := 0x7FFFFFFFFFFFFFFF#64 }.din.toInt := by decide

/-- The register 0; its top bit alone; bit 0 alone. -/
theorem witness_MsbFindsTheHighestSetBit :
    (unitOf 8).cfg.n < 2 ^ 63 ∧ ((unitOf 8).xreg 0).toNat = 0 ∧
    (((unitOf 8).holding 0x80 0).xreg 0).getLsbD 7 = true ∧ (∀ j, 7 < j → (((unitOf 8).holding 0x80 0).xreg 0).getLsbD j = false) ∧
    (((unitOf 8).holding 1 0).xreg 0).getLsbD 0 = true ∧ ∀ j, 0 < j → (((unitOf 8).holding 1 0).xreg 0).getLsbD j = false := by
  refine ⟨by decide, by decide, by decide, fun j hj => BitVec.getLsbD_of_ge _ _ hj, by decide, fun j hj => ?_⟩
  by_cases h8 : 8 ≤ j
  · exact BitVec.getLsbD_of_ge _ _ h8
  · have h : ∀ k : Fin 8, 0 < k.val → (((unitOf 8).holding 1 0).xreg 0).getLsbD k.val = false := by decide
    exact h ⟨j, by omega⟩ hj

/-- Index `N - 1` and index `N`. -/
theorem witness_BitAccessSetsClearsTestsOrFaults :
    { unitOf 12 with din := 11#64 }.din.toNat < (unitOf 12).cfg.n ∧ (unitOf 12).cfg.n ≤ { unitOf 12 with din := 12#64 }.din.toNat := by
  decide

/-- The last block and the first that does not exist. -/
theorem witness_BlockReadGivesTheByteOrFaults :
    { unitOf 12 with din := 1#64 }.din.toNat < ((unitOf 12).cfg.n + 7) / 8 ∧
    ((unitOf 12).cfg.n + 7) / 8 ≤ { unitOf 12 with din := 2#64 }.din.toNat := by decide

/-- `-128 / -1`, the pair whose quotient wraps; and equal and distinct destinations. -/
theorem witness_DivisionTruncatesTowardZero :
    (((unitOf 8).holding 0x80 0xFF).xreg 1).toNat ≠ 0 ∧ (0 : XReg) ≠ 2 ∧ (2 : XReg) = 2 := by decide

theorem witness_ZeroDivisorRaisesDivideByZero : ((unitOf 8).xreg 1).toNat = 0 := by decide

theorem witness_DivisionIdentityHolds : (0xFF#8 : BitVec 8) ≠ 0#8 ∧ (1#1 : BitVec 1) ≠ 0#1 := by decide

theorem witness_DecimalArithmeticIsExactAndNormalised :
    Decimal.normalised { sign := true, digits := [9, 9, 1] } = true ∧ Decimal.normalised { sign := false, digits := [0] } = true ∧
    ([0, 0] : List Nat) ≠ [] := by decide

theorem witness_BinaryToDecimalIsExact : 1 ≤ (unitOf 1).cfg.n ∧ Memory.wf (unitOf 1).dm = true ∧
    1 ≤ (busy .reset).cfg.n ∧ Memory.wf (busy .reset).dm = true := by decide

theorem witness_ToStringWritesTheShortestNumeral :
    (unitOf 1).cfg.InRange ∧ Memory.wf (unitOf 1).dm = true ∧ (busy .reset).cfg.InRange ∧ Memory.wf (busy .reset).dm = true := by
  decide

theorem witness_ToBinaryWritesEveryBit : (unitOf 1).cfg.n ≤ (unitOf 1).cfg.cbSize := by decide

/-- `"0x'"` and `"0X1a"`. -/
theorem witness_ParseReadsHexadecimalText :
    (((unitOf 8).holdingText [0x30#8, 0x78#8, 0x27#8]).text = some [0x30#8, 0x78#8, 0x27#8] ∧
      IsHexText [0x30#8, 0x78#8, 0x27#8] [0x27#8]) ∧
    (((unitOf 8).holdingText [0x30#8, 0x58#8, 0x31#8, 0x61#8]).text = some [0x30#8, 0x58#8, 0x31#8, 0x61#8] ∧
      IsHexText [0x30#8, 0x58#8, 0x31#8, 0x61#8] [0x31#8, 0x61#8]) :=
  ⟨⟨by decide, .inl rfl, by decide, by decide⟩, ⟨by decide, .inr rfl, by decide, by decide⟩⟩

/-- `"-12"` and `"00"`. -/
theorem witness_ParseReadsDecimalText :
    ((busy .reset).text = some [0x2D#8, 0x31#8, 0x32#8] ∧ IsDecText true [0x2D#8, 0x31#8, 0x32#8] [0x31#8, 0x32#8]) ∧
    (((unitOf 8).holdingText [0x30#8, 0x30#8]).text = some [0x30#8, 0x30#8] ∧ IsDecText false [0x30#8, 0x30#8] [0x30#8, 0x30#8]) :=
  ⟨⟨by decide, rfl, by decide, by decide⟩, ⟨by decide, rfl, by decide, by decide⟩⟩

/-- The empty text. -/
theorem witness_ParseFailureIsNotAFault :
    (unitOf 8).text = some [] ∧ (∀ body, ¬IsHexText [] body) ∧ ∀ minus body, ¬IsDecText minus [] body := by
  refine ⟨by decide, fun body h => by simp [IsHexText] at h, fun minus body h => ?_⟩
  obtain ⟨he, hb, -⟩ := h
  exact hb (List.append_eq_nil_iff.1 he.symm).2

theorem witness_ParseOfToStringIsTheValue : (busy .reset).cfg.InRange := (busy_inv .reset).inRange

/-- The last free cell, and the full buffer. -/
theorem witness_BufferResetAndAppend :
    (((unitOf 1).holdingText [0x39#8, 0x31#8]).clen < (unitOf 1).cfg.cbSize ∧
      Memory.wf (w := 8) ((unitOf 1).holdingText [0x39#8, 0x31#8]).cb = true) ∧
    ((unitOf 1).holdingText [0x39#8, 0x31#8, 0x32#8]).clen = (unitOf 1).cfg.cbSize := by decide

/-- The last valid cell and the first invalid one, of the text (3 characters) and of the Decimal (2 digits). -/
theorem witness_BufferReadsGiveTheCellOrFault :
    (busy .reset).clen ≤ (busy .reset).cfg.cbSize ∧ (busy .reset).dlen ≤ (busy .reset).cfg.n ∧
    { busy .reset with din := 2#64 }.din.toNat < (busy .reset).clen ∧ (busy .reset).clen ≤ { busy .reset with din := 3#64 }.din.toNat ∧
    { busy .reset with din := 1#64 }.din.toNat < (busy .reset).dlen ∧ (busy .reset).dlen ≤ { busy .reset with din := 2#64 }.din.toNat := by
  decide

/-- Every class of special source, in bfloat<16,8>: NaN, infinity, binary64 subnormal, `e = EMAX + 1`, `e = EMIN_SUB - 1`. -/
theorem witness_EncodeSpecialSources :
    (unitOf 8).cfg.InRange ∧ (dblExp 0x7FF0000000000001#64 = 0x7FF ∧ dblFrac 0x7FF0000000000001#64 ≠ 0) ∧
    (dblExp 0xFFF0000000000000#64 = 0x7FF ∧ dblFrac 0xFFF0000000000000#64 = 0) ∧ dblExp 0x800FFFFFFFFFFFFF#64 = 0 ∧
    (dblExp 0x4800000000000000#64 ≠ 0x7FF ∧ (dblExp 0x4800000000000000#64 : Int) - 1023 > 2 ^ ((unitOf 8).cfg.e - 1)) ∧
    (dblExp 0x379FFFFFFFFFFFFF#64 ≠ 0 ∧
      (dblExp 0x379FFFFFFFFFFFFF#64 : Int) - 1023 < 2 - 2 ^ ((unitOf 8).cfg.e - 1) - (unitOf 8).cfg.fracBits) := by decide

/-- A source with `e = EMIN_SUB`, the lowest the statement covers; and one above `EMAX`. -/
theorem witness_EncodeGivesTheNearestFinite :
    ((unitOf 8).cfg.InRange ∧ dblExp 0x37A8000000000000#64 ≠ 0 ∧ dblExp 0x37A8000000000000#64 ≠ 0x7FF ∧
      (dblExp 0x37A8000000000000#64 : Int) - 1023 = eminSub (unitOf 8).cfg ∧
      ∃ t, exec (.fenc 0) { unitOf 8 with din := 0x37A8000000000000#64 } = .next t) ∧
    (dblExp 0xFE37E43C8800759C#64 ≠ 0x7FF ∧ (dblExp 0xFE37E43C8800759C#64 : Int) - 1023 ≥ eminSub (unitOf 8).cfg) :=
  ⟨⟨by decide, by decide, by decide, by decide, ⟨_, rfl⟩⟩, by decide⟩

/-- Two finite sources of equal magnitude, and an infinity above them. -/
theorem witness_EncodeKeepsSignsAndOrder :
    (unitOf 8).cfg.InRange ∧ (∃ t, exec (.fenc 0) { unitOf 8 with din := 0xBFF0000000000000#64 } = .next t) ∧
    (∃ t, exec (.fenc 0) { unitOf 8 with din := 0x7FF0000000000000#64 } = .next t) ∧
    dblExp 0xBFF0000000000000#64 ≠ 0x7FF ∧ dblExp 0x3FF0000000000000#64 ≠ 0x7FF ∧
    |dblValue 0xBFF0000000000000#64| ≤ |dblValue 0x3FF0000000000000#64| ∧
    dblExp 0x7FF0000000000000#64 = 0x7FF ∧ dblFrac 0x7FF0000000000000#64 = 0 := by
  have e : dblExp 0xBFF0000000000000#64 = dblExp 0x3FF0000000000000#64 := by decide
  have f : dblFrac 0xBFF0000000000000#64 = dblFrac 0x3FF0000000000000#64 := by decide
  have g : dblSign 0xBFF0000000000000#64 = true ∧ dblSign 0x3FF0000000000000#64 = false ∧
      dblExp 0x3FF0000000000000#64 ≠ 0 := by decide
  refine ⟨by decide, ⟨_, rfl⟩, ⟨_, rfl⟩, by decide, by decide, ?_, by decide, by decide⟩
  simp only [dblValue, e, f, g, if_false, signFactor, abs_mul]
  simp

/-- A pattern of every class, in bfloat<16,8>. -/
theorem witness_DecodeToDoubleIsExact :
    (unitOf 8).cfg.InRange ∧ isNumeric (unitOf 8).cfg 0x8000 = true ∧ isNumeric (unitOf 8).cfg 0x0001 = true ∧
    isNumeric (unitOf 8).cfg 0x7FFD = true ∧ bfClass (unitOf 8).cfg 0xFFFE = .infinity ∧
    bfClass (unitOf 8).cfg 0x7FFF = .quietNaN ∧ bfClass (unitOf 8).cfg 0xFFFF = .signallingNaN := by decide

theorem witness_EncodeOfDecodedPatternIsThePattern : (busy .reset).cfg.InRange := (busy_inv .reset).inRange

theorem witness_BfloatSettersAndRawAccess : (busy .reset).cfg.InRange := (busy_inv .reset).inRange

theorem witness_ClassifyReportsTheClassAndSign : (busy .reset).cfg.InRange := (busy_inv .reset).inRange

theorem witness_BfloatArithmeticIsRejected : (1 : Fin 8) ≠ 0 ∧ 0x68 ∈ [0x68, 0x69, 0x6A, 0x6B] := by decide

/-- The last register number and the first that names none. -/
theorem witness_CsrReadGivesTheRegisterOrFaults :
    { unitOf 8 with din := 7#64 }.din.toNat < 8 ∧ 8 ≤ { unitOf 8 with din := 8#64 }.din.toNat := by decide

end Sys2Proof.Machine
end

/-! ## What a command can do

`Effect s i t` lists, once for all commands, the ways `exec i s` can answer `t`; `step_effect` does the same for a step. Rules
about the whole machine are case splits over these two, and no proof but theirs walks through the commands. -/

namespace Sys2Proof.Machine

/-! ### The checks that a command begins with -/

/-- The index check answers a next state by the fault or by its continuation (R154). -/
theorem withIndex_eq_next {s t : State} {bound : Nat} {k : Nat → Result} (h : withIndex s bound k = .next t) :
    t = s.raise .indexOutOfBounds ∨ k s.din.toNat = .next t := by
  obtain ⟨hfault, hgo⟩ := withIndex_eq s bound k
  rcases Nat.lt_or_ge s.din.toNat bound with hlt | hge
  · exact .inr ((hgo hlt).symm.trans h)
  · exact .inl (Host.Outcome.next.inj ((hfault hge).symm.trans h)).symm

/-- The divisor check answers a next state by the fault or by its continuation (R165). -/
theorem withQuotient_eq_next {s t : State} {a b : XReg} {k : BitVec s.cfg.n × BitVec s.cfg.n → Result}
    (h : withQuotient s a b k = .next t) :
    t = s.raise .divideByZero ∨ k (divideWord (s.xreg a) (s.xreg b)) = .next t := by
  obtain ⟨hfault, hgo⟩ := withQuotient_eq s a b k
  by_cases hz : s.xreg b = 0#s.cfg.n
  · exact .inl (Host.Outcome.next.inj ((hfault hz).symm.trans h)).symm
  · exact .inr ((hgo hz).symm.trans h)

/-! ### The effects of the commands -/

/-- `t` is a next state that the command `i` may leave from `s`. -/
inductive Effect (s : State) : Instr → State → Prop where
  /-- The command answers and writes nothing. -/
  | respond {i : Instr} (dout : Native) : Effect s i (s.complete dout)
  /-- One integer register is written. -/
  | writeX {i : Instr} {a : XReg} (ha : a ∈ xDestinations i) (v : BitVec s.cfg.n) (dout : Native) :
      Effect s i ((s.setX a v).complete dout)
  /-- Two integer registers are written, one after the other (R163). -/
  | writeTwoX {i : Instr} {a c : XReg} (ha : a ∈ xDestinations i) (hc : c ∈ xDestinations i) (v w : BitVec s.cfg.n) :
      Effect s i (((s.setX a v).setX c w).complete 0#64)
  /-- `PARSE` meets a text that is no numeral (R187). -/
  | parseFails (a : XReg) : Effect s (.parse a) ((s.setX a (0#s.cfg.n)).setPf.complete 0#64)
  /-- One bfloat register is written. -/
  | writeF {i : Instr} {a : FReg} (ha : a ∈ fDestinations i) (v : BitVec s.cfg.nf) :
      Effect s i ((s.setF a v).complete 0#64)
  /-- A fault of R250 is taken (R256). -/
  | fault {i : Instr} {c : FaultCause} (hc : mayRaise i c = true) : Effect s i (s.raise c)
  /-- `CBRST` (R190). -/
  | emptyText : Effect s .cbrst (s.emptyText.complete 0#64)
  /-- `CBPUT` into a buffer with room (R191). -/
  | appendChar {u : State} (hu : s.appendChar s.dinChar = some u) : Effect s .cbput (u.complete 0#64)
  /-- `TOBIN` (R178). -/
  | storeText {a : XReg} {u : State} (hu : s.storeText (binaryText (s.xreg a)) = some u) :
      Effect s (.tobin a) (u.complete 0#64)
  /-- `B2D` (R176). -/
  | storeDecimal {a : XReg} {u : State} (hu : s.storeDecimal (b2d (s.xreg a)) = some u) :
      Effect s (.b2d a) (u.complete 0#64)
  /-- `TOSTR` (R177). -/
  | storeDecimalAndText {a : XReg} {u w : State} (hu : s.storeDecimal (b2d (s.xreg a)) = some u)
      (hw : u.storeText (b2d (s.xreg a)).text = some w) : Effect s (.tostr a) (w.complete 0#64)
  /-- `CLRF` (R241). -/
  | clearFaults : Effect s .clrf (s.clearFaults.complete 0#64)

/-- An effect whose state a command answers is an effect of that answer. -/
theorem Effect.of_next {s t u : State} {i : Instr} (e : Effect s i u)
    (h : (.next u : Result) = .next t) : Effect s i t :=
  Host.Outcome.next.inj h ▸ e

/-- The three dividing commands, given what they do with quotient and remainder. -/
theorem Effect.of_withQuotient {s t : State} {i : Instr} {a b : XReg} {k : BitVec s.cfg.n × BitVec s.cfg.n → Result}
    (hf : mayRaise i .divideByZero = true) (h : withQuotient s a b k = .next t)
    (hk : ∀ qr, k qr = .next t → Effect s i t) : Effect s i t := by
  rcases withQuotient_eq_next h with rfl | h
  · exact .fault hf
  · exact hk _ h

/-- The four indexed commands, given what they do with the index. -/
theorem Effect.of_withIndex {s t : State} {i : Instr} {bound : Nat} {k : Nat → Result}
    (hf : mayRaise i .indexOutOfBounds = true) (h : withIndex s bound k = .next t)
    (hk : ∀ j, k j = .next t → Effect s i t) : Effect s i t := by
  rcases withIndex_eq_next h with rfl | h
  · exact .fault hf
  · exact hk _ h

/-- `CSRR` answers a register's value or takes the fault (R240). -/
theorem execCsrr_effect {s t : State} (h : execCsrr s = .next t) : Effect s .csrr t := by
  unfold execCsrr at h
  split at h
  · exact (Effect.respond _).of_next h
  · exact (Effect.fault rfl).of_next h

/-- `PARSE` writes the value of the text, or fails (R180, R187). -/
theorem execParse_effect {s t : State} {a : XReg} (h : execParse a s = .next t) : Effect s (.parse a) t := by
  obtain ⟨text, -, h⟩ := (orStop_eq_next _ _ _ _).1 h
  split at h
  · exact (Effect.writeX (a := a) List.mem_cons_self _ _).of_next h
  · exact (Effect.parseFails a).of_next h

/-- `CBPUT` appends, or takes the fault where the buffer is full (R191). -/
theorem execCbput_effect {s t : State} (h : execCbput s = .next t) : Effect s .cbput t := by
  unfold execCbput at h
  split at h
  · exact (Effect.fault rfl).of_next h
  · obtain ⟨u, hu, h⟩ := (orStop_eq_next _ _ _ _).1 h
    exact (Effect.appendChar hu).of_next h

/-- `CBGET` answers a character or takes the fault (R193). -/
theorem execCbget_effect {s t : State} (h : execCbget s = .next t) : Effect s .cbget t := by
  unfold execCbget at h
  split at h
  · exact (Effect.fault rfl).of_next h
  · obtain ⟨c, -, h⟩ := (orStop_eq_next _ _ _ _).1 h
    exact (Effect.respond _).of_next h

/-- `DMGET` answers a digit or takes the fault (R194). -/
theorem execDmget_effect {s t : State} (h : execDmget s = .next t) : Effect s .dmget t := by
  unfold execDmget at h
  split at h
  · exact (Effect.fault rfl).of_next h
  · obtain ⟨d, -, h⟩ := (orStop_eq_next _ _ _ _).1 h
    exact (Effect.respond _).of_next h

/-- Every next state of a command is one of its effects. -/
theorem exec_effect {i : Instr} {s t : State} (h : exec i s = .next t) : Effect s i t := by
  cases i with
  | ldis a | ldiu a | setraw a | mov a _ | clr a | add a _ | sub a _ | mul a _ | neg a _ | not a _ | inc a | dec a | shl a
  | shr a => exact (Effect.writeX (a := a) List.mem_cons_self _ _).of_next h
  | stis _ | stiu _ | i2d _ | ceq _ _ | cne _ _ | clt _ _ | cgt _ _ | cle _ _ | cge _ _ | msb _ | fdec _ | fclass _
  | fmxv _ => exact (Effect.respond _).of_next h
  | div a _ | rem a _ =>
    simp only [exec, execDiv, execRem] at h
    exact .of_withQuotient rfl h fun _ hk => (Effect.writeX (a := a) List.mem_cons_self _ _).of_next hk
  | divrem a _ c =>
    simp only [exec, execDivrem] at h
    exact .of_withQuotient rfl h fun _ hk =>
      (Effect.writeTwoX (a := a) (c := c) List.mem_cons_self (List.mem_cons_of_mem _ List.mem_cons_self) _ _).of_next hk
  | setb a | rstb a =>
    simp only [exec, execSetb, execRstb] at h
    exact .of_withIndex rfl h fun _ hk => (Effect.writeX (a := a) List.mem_cons_self _ _).of_next hk
  | tstb _ | blkr _ =>
    simp only [exec, execTstb, execBlkr] at h
    exact .of_withIndex rfl h fun _ hk => (Effect.respond _).of_next hk
  | b2d _ =>
    obtain ⟨u, hu, h⟩ := (orStop_eq_next _ _ _ _).1 h
    exact (Effect.storeDecimal hu).of_next h
  | tostr _ =>
    obtain ⟨u, hu, h⟩ := (orStop_eq_next _ _ _ _).1 h
    obtain ⟨w, hw, h⟩ := (orStop_eq_next _ _ _ _).1 h
    exact (Effect.storeDecimalAndText hu hw).of_next h
  | tobin _ =>
    obtain ⟨u, hu, h⟩ := (orStop_eq_next _ _ _ _).1 h
    exact (Effect.storeText hu).of_next h
  | parse _ => exact execParse_effect h
  | cbrst => exact Effect.emptyText.of_next h
  | cbput => exact execCbput_effect h
  | cbget => exact execCbget_effect h
  | dmget => exact execDmget_effect h
  | fenc a | fsetz a | fsetinf a | fsetnan a | fmvx a => exact (Effect.writeF (a := a) List.mem_cons_self _).of_next h
  | fadd _ _ | fsub _ _ | fmul _ _ | fdiv _ _ => exact (Effect.fault (c := .unsupported) rfl).of_next h
  | csrr => exact execCsrr_effect h
  | clrf => exact Effect.clearFaults.of_next h

/-! ### The effects of a step -/

/-- `t` is a next state that a step may leave from `s`. -/
inductive StepEffect (s : State) : State → Prop where
  /-- The host presents nothing. -/
  | idle (hp : s.pending = []) : StepEffect s s
  /-- The host asserts reset (R280). -/
  | reset {rest : List HostMove} (hp : s.pending = .reset :: rest) : StepEffect s (s.assertReset rest)
  /-- The host presents a command (R79, R285). -/
  | command {c : Command} {rest : List HostMove} {i : Instr} {t : State} (hp : s.pending = .present c :: rest)
      (hd : decode c.cw = .ok i) (ht : exec i (s.accept rest c.din) = .next t) : StepEffect s t
  /-- The host presents a word that is no command (R251). -/
  | illegal {c : Command} {rest : List HostMove} {e : DecodeError} (hp : s.pending = .present c :: rest)
      (hd : decode c.cw = .error e) : StepEffect s ((s.accept rest c.din).raise .illegalCommand)

/-- Every next state of a step is one of its effects, and the configuration is in range. -/
theorem step_effect {s t : State} (h : step s = .next t) : s.cfg.InRange ∧ StepEffect s t := by
  unfold step at h
  split at h
  · next hr =>
    refine ⟨hr, ?_⟩
    split at h
    · next hp => exact Host.Outcome.next.inj h ▸ .idle hp
    · next rest hp => exact Host.Outcome.next.inj h ▸ .reset hp
    · next c rest hp =>
      unfold runCommand at h
      split at h
      · next i hd => exact .command hp hd h
      · next e hd => exact Host.Outcome.next.inj h ▸ .illegal hp hd
  · cases h

end Sys2Proof.Machine

/-! ## What each effect leaves unchanged -/

namespace Sys2Proof.Machine

theorem KeepsX.trans {rs : List XReg} {s t u : State} (h : KeepsX rs s t) (h' : KeepsX rs t u) : KeepsX rs s u :=
  fun r hr => (h' r hr).trans (h r hr)

/-- A response changes no port. -/
theorem KeepsPorts.complete {s t : State} (h : KeepsPorts s t) (dout : Native) : KeepsPorts s (t.complete dout) :=
  ⟨h.cfg, h.pending, h.din⟩

/-- A Decimal and then a text stored change nothing but the two memories and their lengths. -/
theorem storeDecimal_storeText_frame {s u w : State} {d : Decimal} {text : List Byte} (hu : s.storeDecimal d = some u)
    (hw : u.storeText text = some w) : KeepsPorts s w ∧ KeepsX [] s w ∧ KeepsF [] s w ∧ w.fsr = s.fsr := by
  obtain ⟨⟨hcfg, hpend, hdin⟩, hx, hf, -, -, hfsr⟩ := State.storeDigits_onlyDecimal s u _ _ hu
  obtain ⟨⟨hcfg', hpend', hdin'⟩, hx', hf', -, -, hfsr'⟩ := State.storeText_onlyText u w _ hw
  exact ⟨⟨hcfg'.trans hcfg, hpend'.trans hpend, hdin'.trans hdin⟩, hx.trans hx',
    fun r hr => (hf' r hr).trans (hf r hr), hfsr'.trans hfsr⟩

/-- No command changes the configuration or the input ports (R32). -/
theorem Effect.keepsPorts {i : Instr} {s t : State} (e : Effect s i t) : KeepsPorts s t := by
  cases e with
  | respond _ | writeX _ _ _ | writeTwoX _ _ _ _ | parseFails _ | writeF _ _ | fault _ | emptyText | clearFaults =>
    exact ⟨rfl, rfl, rfl⟩
  | appendChar hu => exact (State.appendChar_onlyText s _ _ hu).ports.complete _
  | storeText hu => exact (State.storeText_onlyText s _ _ hu).ports.complete _
  | storeDecimal hu => exact (State.storeDigits_onlyDecimal s _ _ _ hu).ports.complete _
  | storeDecimalAndText hu hw => obtain ⟨hp, -⟩ := storeDecimal_storeText_frame hu hw; exact hp.complete _

/-- A command writes no integer register but its destinations (R26). -/
theorem Effect.keepsX {i : Instr} {s t : State} (e : Effect s i t) : KeepsX (xDestinations i) s t := by
  cases e with
  | respond _ | writeF _ _ | fault _ | emptyText | clearFaults => exact KeepsX.refl _ s
  | writeX ha v _ => exact State.setX_keepsX s _ v _ ha
  | writeTwoX ha hc v w => exact (State.setX_keepsX s _ v _ ha).trans (State.setX_keepsX (s.setX _ v) _ w _ hc)
  | parseFails a => exact State.setX_keepsX s a _ _ List.mem_cons_self
  | appendChar hu => exact (State.appendChar_onlyText s _ _ hu).xs
  | storeText hu => exact (State.storeText_onlyText s _ _ hu).xs
  | storeDecimal hu => exact (State.storeDigits_onlyDecimal s _ _ _ hu).xs
  | storeDecimalAndText hu hw => obtain ⟨-, hx, -⟩ := storeDecimal_storeText_frame hu hw; exact hx

/-- A command writes no bfloat register but its destination (R28, R229). -/
theorem Effect.keepsF {i : Instr} {s t : State} (e : Effect s i t) : KeepsF (fDestinations i) s t := by
  cases e with
  | respond _ | writeX _ _ _ | writeTwoX _ _ _ _ | parseFails _ | fault _ | emptyText | clearFaults =>
    exact KeepsF.refl _ s
  | writeF ha v => exact State.setF_keepsF s _ v _ ha
  | appendChar hu => exact (State.appendChar_onlyText s _ _ hu).fs
  | storeText hu => exact (State.storeText_onlyText s _ _ hu).fs
  | storeDecimal hu => exact (State.storeDigits_onlyDecimal s _ _ _ hu).fs
  | storeDecimalAndText hu hw => obtain ⟨-, -, hf, -⟩ := storeDecimal_storeText_frame hu hw; exact hf

/-- A command that R31 does not list under `CLEN` keeps the text. -/
theorem Effect.keepsText {i : Instr} {s t : State} (e : Effect s i t) (hi : writesText i = false) : KeepsText s t := by
  cases e with
  | respond _ | writeX _ _ _ | writeTwoX _ _ _ _ | parseFails _ | writeF _ _ | fault _ | clearFaults =>
    exact KeepsText.refl s
  | emptyText | appendChar _ | storeText _ | storeDecimalAndText _ _ => simp [writesText] at hi
  | storeDecimal hu => exact (State.storeDigits_onlyDecimal s _ _ _ hu).text

/-- A command that R31 does not list under `DLEN` and `DSIGN` keeps the Decimal. -/
theorem Effect.keepsDecimal {i : Instr} {s t : State} (e : Effect s i t) (hi : writesDecimal i = false) :
    KeepsDecimal s t := by
  cases e with
  | respond _ | writeX _ _ _ | writeTwoX _ _ _ _ | parseFails _ | writeF _ _ | fault _ | emptyText | clearFaults =>
    exact KeepsDecimal.refl s
  | appendChar hu => exact (State.appendChar_onlyText s _ _ hu).decimal
  | storeText hu => exact (State.storeText_onlyText s _ _ hu).decimal
  | storeDecimal _ | storeDecimalAndText _ _ => simp [writesDecimal] at hi

/-! ## The fault status, the configuration, reset -/

/-- `FSR` has three writers: a fault, a failed `PARSE` and `CLRF` (R31, R33). -/
theorem Effect.fsr_cases {i : Instr} {s t : State} (e : Effect s i t) :
    t.fsr = s.fsr ∨ (i = .clrf ∧ t.fsr = 0#64) ∨
    ((∃ a, i = .parse a) ∧ t.rsp = completedWith 0#64 ∧ t.fsr = withPf s.fsr) ∨
    (∃ c, mayRaise i c = true ∧ Raises c s t) := by
  cases e with
  | respond _ | writeX _ _ _ | writeTwoX _ _ _ _ | writeF _ _ | emptyText => exact .inl rfl
  | appendChar hu => exact .inl (State.appendChar_onlyText s _ _ hu).fsr
  | storeText hu => exact .inl (State.storeText_onlyText s _ _ hu).fsr
  | storeDecimal hu => exact .inl (State.storeDigits_onlyDecimal s _ _ _ hu).fsr
  | storeDecimalAndText hu hw => obtain ⟨-, -, -, hfsr⟩ := storeDecimal_storeText_frame hu hw; exact .inl hfsr
  | clearFaults => exact .inr (.inl ⟨rfl, rfl⟩)
  | parseFails a => exact .inr (.inr (.inl ⟨⟨a, rfl⟩, rfl, rfl⟩))
  | fault hc => exact .inr (.inr (.inr ⟨_, hc, State.raise_raises s _⟩))

/-- No step, reset included, changes the configuration (R32). -/
theorem StepEffect.cfg_eq {s t : State} (e : StepEffect s t) : t.cfg = s.cfg := by
  cases e with
  | idle _ | reset _ | illegal _ _ => rfl
  | command _ _ ht => exact (exec_effect ht).keepsPorts.cfg

/-- `CFG_N`, `CFG_BLK`, `CFG_NF` and `CFG_E` read the configuration and nothing else (R31). -/
theorem State.csr_of_cfg_eq {s t : State} (h : t.cfg = s.cfg) :
    t.csr 0 = s.csr 0 ∧ t.csr 1 = s.csr 1 ∧ t.csr 2 = s.csr 2 ∧ t.csr 3 = s.csr 3 := by
  simp [State.csr, h]

@[simp] theorem State.resetWith_xpat (c : Config) (r : XReg) : (State.resetWith c).xpat r = 0 := by
  simp [State.xpat, State.resetWith]

@[simp] theorem State.resetWith_fpat (c : Config) (r : FReg) : (State.resetWith c).fpat r = 0 := by
  simp [State.fpat, State.resetWith]

end Sys2Proof.Machine

/-! ## Digit vectors and the binary-to-decimal converter -/

namespace Sys2Proof.Machine

/-- The most significant digit is not 0; of an empty vector nothing is asked. -/
def NoHighZero (ds : List Nat) : Prop := ds.getLast? ≠ some 0

/-- The digit vectors that R170 admits: decimal digits, at least one, no superfluous high zero. -/
def NormalDigits (ds : List Nat) : Prop := (∀ d ∈ ds, d ≤ 9) ∧ ds ≠ [] ∧ (ds = [0] ∨ NoHighZero ds)

/-- R170 in terms of the digits and the sign flag. -/
theorem Decimal.normalised_iff (d : Decimal) :
    d.normalised = true ↔ NormalDigits d.digits ∧ (d.digits = [0] → d.sign = false) := by
  obtain ⟨sign, digits⟩ := d
  match digits with
  | [] => simp [Decimal.normalised, NormalDigits]
  | [k] =>
    simpa [Decimal.normalised, NormalDigits, NoHighZero, em] using fun _ => imp_iff_not_or.symm
  | k :: l :: ds => simp [Decimal.normalised, NormalDigits, NoHighZero]

theorem noHighZero_nil : NoHighZero [] := by simp [NoHighZero]

theorem noHighZero_cons (d : Nat) (ds : List Nat) : NoHighZero (d :: ds) ↔ NoHighZero ds ∧ (ds = [] → d ≠ 0) := by
  cases ds <;> simp [NoHighZero]

/-! ### Adding a carry -/

/-- A carry of 0 changes nothing. -/
theorem addCarry_zero (ds : List Nat) (h : ∀ d ∈ ds, d ≤ 9) : addCarry ds 0 = ds := by
  induction ds with
  | nil => rfl
  | cons d ds ih =>
    obtain ⟨hd, hds⟩ := List.forall_mem_cons.1 h
    rw [addCarry, show (d + 0) % 10 = d by omega, show (d + 0) / 10 = 0 by omega, ih hds]

theorem addCarry_le_nine (ds : List Nat) (c : Nat) : ∀ d ∈ addCarry ds c, d ≤ 9 := by
  induction ds generalizing c with
  | nil => by_cases hc : c = 1 <;> simp [addCarry, hc]
  | cons d ds ih => exact List.forall_mem_cons.2 ⟨by omega, ih _⟩

theorem addCarry_eq_nil {ds : List Nat} {c : Nat} (h : addCarry ds c = []) : ds = [] ∧ c ≠ 1 := by
  cases ds with
  | nil => simpa [addCarry] using h
  | cons d ds => simp [addCarry] at h

/-- A carry adds its value. -/
theorem digitsValue_addCarry (ds : List Nat) (c : Nat) (hc : c ≤ 1) (h : ∀ d ∈ ds, d ≤ 9) :
    digitsValue (addCarry ds c) = digitsValue ds + c := by
  induction ds generalizing c with
  | nil => interval_cases c <;> rfl
  | cons d ds ih =>
    obtain ⟨hd, hds⟩ := List.forall_mem_cons.1 h
    have htail := ih ((d + c) / 10) (by omega) hds
    simp only [addCarry, digitsValue, htail]
    omega

theorem addCarry_noHighZero (ds : List Nat) (c : Nat) (hc : c ≤ 1) (h : ∀ d ∈ ds, d ≤ 9) (hz : NoHighZero ds) :
    NoHighZero (addCarry ds c) := by
  induction ds generalizing c with
  | nil => by_cases hc1 : c = 1 <;> simp [addCarry, hc1, NoHighZero]
  | cons d ds ih =>
    obtain ⟨hd, hds⟩ := List.forall_mem_cons.1 h
    obtain ⟨hzs, hz0⟩ := (noHighZero_cons d ds).1 hz
    refine (noHighZero_cons _ _).2 ⟨ih _ (by omega) hds hzs, fun hnil => ?_⟩
    obtain ⟨hempty, hcarry⟩ := addCarry_eq_nil hnil
    have := hz0 hempty
    omega

/-! ### The digit adder (R171) -/

theorem addDigits_le_nine (xs ys : List Nat) (c : Nat) : ∀ d ∈ addDigits xs ys c, d ≤ 9 := by
  fun_induction addDigits xs ys c with
  | case1 ys c => exact addCarry_le_nine ys c
  | case2 x xs c => exact addCarry_le_nine _ c
  | case3 x xs y ys c ih => exact List.forall_mem_cons.2 ⟨by omega, ih⟩

theorem addDigits_eq_nil {xs ys : List Nat} {c : Nat} (h : addDigits xs ys c = []) : xs = [] ∧ ys = [] ∧ c ≠ 1 := by
  cases xs with
  | nil => exact ⟨rfl, addCarry_eq_nil (by simpa [addDigits] using h)⟩
  | cons x xs => cases ys <;> simp [addDigits, addCarry] at h

/-- The digit adder adds the values. -/
theorem digitsValue_addDigits (xs ys : List Nat) (c : Nat) (hc : c ≤ 1) (hx : ∀ d ∈ xs, d ≤ 9) (hy : ∀ d ∈ ys, d ≤ 9) :
    digitsValue (addDigits xs ys c) = digitsValue xs + digitsValue ys + c := by
  fun_induction addDigits xs ys c with
  | case1 ys c => rw [digitsValue_addCarry ys c hc hy, digitsValue, Nat.zero_add]
  | case2 x xs c => rw [digitsValue_addCarry _ c hc hx]; rfl
  | case3 x xs y ys c ih =>
    obtain ⟨hx0, hxs⟩ := List.forall_mem_cons.1 hx
    obtain ⟨hy0, hys⟩ := List.forall_mem_cons.1 hy
    have htail := ih (by omega) hxs hys
    simp only [digitsValue, htail]
    omega

theorem addDigits_noHighZero (xs ys : List Nat) (c : Nat) (hc : c ≤ 1) (hx : ∀ d ∈ xs, d ≤ 9) (hy : ∀ d ∈ ys, d ≤ 9)
    (hzx : NoHighZero xs) (hzy : NoHighZero ys) : NoHighZero (addDigits xs ys c) := by
  fun_induction addDigits xs ys c with
  | case1 ys c => exact addCarry_noHighZero ys c hc hy hzy
  | case2 x xs c => exact addCarry_noHighZero _ c hc hx hzx
  | case3 x xs y ys c ih =>
    obtain ⟨hx0, hxs⟩ := List.forall_mem_cons.1 hx
    obtain ⟨hy0, hys⟩ := List.forall_mem_cons.1 hy
    obtain ⟨hzxs, hx1⟩ := (noHighZero_cons x xs).1 hzx
    obtain ⟨hzys, -⟩ := (noHighZero_cons y ys).1 hzy
    refine (noHighZero_cons _ _).2 ⟨ih (by omega) hxs hys hzxs hzys, fun hnil => ?_⟩
    obtain ⟨hempty, -, hcarry⟩ := addDigits_eq_nil hnil
    have := hx1 hempty
    omega

theorem addDigits_comm (xs ys : List Nat) (c : Nat) : addDigits xs ys c = addDigits ys xs c := by
  fun_induction addDigits xs ys c with
  | case1 ys c => cases ys <;> rfl
  | case2 x xs c => rfl
  | case3 x xs y ys c ih => rw [addDigits, ih, Nat.add_comm y x]

/-- Zero added to a digit vector gives the vector. -/
theorem addDigits_zero_left (ys : List Nat) (h : ∀ d ∈ ys, d ≤ 9) (hne : ys ≠ []) : addDigits [0] ys 0 = ys := by
  obtain ⟨y, ys, rfl⟩ := List.exists_cons_of_ne_nil hne
  obtain ⟨hy, hys⟩ := List.forall_mem_cons.1 h
  simp only [addDigits]
  rw [show (0 + y + 0) % 10 = y by omega, show (0 + y + 0) / 10 = 0 by omega, addCarry_zero ys hys]

/-- The sum of two digit vectors of R170 is one: only a sum with zero lacks the digit above, and it is the other operand. -/
theorem addDigits_normal {xs ys : List Nat} (hx : NormalDigits xs) (hy : NormalDigits ys) :
    NormalDigits (addDigits xs ys 0) := by
  obtain ⟨hx9, hxne, hxz⟩ := hx
  obtain ⟨hy9, hyne, hyz⟩ := hy
  rcases hxz with rfl | hxz
  · rw [addDigits_zero_left ys hy9 hyne]; exact ⟨hy9, hyne, hyz⟩
  rcases hyz with rfl | hyz
  · rw [addDigits_comm, addDigits_zero_left xs hx9 hxne]; exact ⟨hx9, hxne, .inr hxz⟩
  exact ⟨addDigits_le_nine _ _ _, fun hnil => hxne (addDigits_eq_nil hnil).1,
    .inr (addDigits_noHighZero xs ys 0 (by omega) hx9 hy9 hxz hyz)⟩

/-! ### The converter (R175) -/

/-- A Decimal that stands for a natural number. -/
def Decimal.IsNatural (d : Decimal) : Prop := d.sign = false ∧ NormalDigits d.digits

/-- The Decimal adder on natural numbers. -/
theorem decAdd_natural {x y : Decimal} (hx : x.IsNatural) (hy : y.IsNatural) :
    (decAdd x y).IsNatural ∧ digitsValue (decAdd x y).digits = digitsValue x.digits + digitsValue y.digits := by
  obtain ⟨hxs, hxd⟩ := hx
  obtain ⟨hys, hyd⟩ := hy
  have hadd : decAdd x y = decAddSame x y := by simp [decAdd, hxs, hys]
  rw [hadd]
  exact ⟨⟨hxs, addDigits_normal hxd hyd⟩, digitsValue_addDigits _ _ 0 (by omega) hxd.1 hyd.1⟩

/-- The loop of R175 adds the bits still to go, each as a multiple of the weight reached. -/
theorem b2dLoop_natural {n : Nat} (mag : BitVec n) (k i : Nat) {acc m : Decimal} (ha : acc.IsNatural) (hm : m.IsNatural) :
    (b2dLoop mag k i acc m).IsNatural ∧ digitsValue (b2dLoop mag k i acc m).digits =
      digitsValue acc.digits + mag.toNat / 2 ^ i % 2 ^ k * digitsValue m.digits := by
  induction k generalizing i acc m with
  | zero => simpa [b2dLoop, Nat.mod_one] using ha
  | succ k ih =>
    obtain ⟨hsum, hsumv⟩ := decAdd_natural ha hm
    obtain ⟨hdbl, hdblv⟩ := decAdd_natural hm hm
    have hbits : mag.toNat / 2 ^ i % 2 ^ (k + 1) = (mag.getLsbD i).toNat + 2 * (mag.toNat / 2 ^ (i + 1) % 2 ^ k) := by
      rw [Nat.pow_succ', Nat.mod_mul, Nat.div_div_eq_div_mul, ← Nat.pow_succ, BitVec.getLsbD, Nat.toNat_testBit]
    rw [b2dLoop, hbits]
    cases hb : mag.getLsbD i with
    | false =>
      obtain ⟨hnat, hval⟩ := ih (i + 1) ha hdbl
      refine ⟨by simpa using hnat, ?_⟩
      simp only [Bool.false_eq_true, if_false, hval, hdblv, Bool.toNat_false]
      ring
    | true =>
      obtain ⟨hnat, hval⟩ := ih (i + 1) hsum hdbl
      refine ⟨by simpa using hnat, ?_⟩
      simp only [if_true, hval, hsumv, hdblv, Bool.toNat_true]
      ring

/-- The digits of `b2d(v)` are those of R170 and their value is the magnitude of `v` (R175). -/
theorem b2d_digits {n : Nat} (v : BitVec n) :
    NormalDigits (b2d v).digits ∧ digitsValue (b2d v).digits = v.abs.toNat := by
  have hzero : Decimal.IsNatural { sign := false, digits := [0] } := by
    simp [Decimal.IsNatural, NormalDigits]
  have hone : Decimal.IsNatural { sign := false, digits := [1] } := by
    simp [Decimal.IsNatural, NormalDigits, NoHighZero]
  obtain ⟨⟨-, hnorm⟩, hval⟩ := b2dLoop_natural v.abs n 0 hzero hone
  refine ⟨hnorm, hval.trans ?_⟩
  simp only [digitsValue, Nat.pow_zero, Nat.div_one, Nat.mod_eq_of_lt v.abs.isLt]
  omega

/-- `b2d(v)` is normalised (R170, R37): where the sign flag is set the magnitude is not zero. -/
theorem b2d_normalised {n : Nat} (v : BitVec n) : (b2d v).normalised = true := by
  obtain ⟨hnorm, hval⟩ := b2d_digits v
  refine (Decimal.normalised_iff _).2 ⟨hnorm, fun hz => ?_⟩
  have habs : v.abs.toNat = 0 := by rw [← hval, hz]; rfl
  have hlt := v.isLt
  rw [BitVec.toNat_abs] at habs
  change v.msb = false
  by_contra hm
  rw [if_pos (by simpa using hm)] at habs
  omega

/-- The cells of a Decimal read back as its digits (R36). -/
theorem Decimal.cells_toNat (d : Decimal) (h : ∀ k ∈ d.digits, k ≤ 9) : d.cells.map BitVec.toNat = d.digits := by
  rw [Decimal.cells, List.map_map, List.map_congr_left (g := id), List.map_id]
  intro k hk
  have := h k hk
  simp only [Function.comp_apply, BitVec.toNat_ofNat, id_eq]
  omega

/-- A Decimal stored in a memory in canonical form reads back (R176). -/
theorem State.decimal_storeDecimal {s t : State} {d : Decimal} (hw : Memory.wf s.dm = true) (hd : ∀ k ∈ d.digits, k ≤ 9)
    (h : s.storeDecimal d = some t) : t.decimal = d := by
  obtain ⟨hcells, hsign⟩ := State.digits_storeDigits s t d.sign d.cells hw h
  rw [State.decimal, hcells, hsign, d.cells_toNat hd]

end Sys2Proof.Machine

/-! ## The invariant: one rule per update of the state, then per effect, then per step -/

namespace Sys2Proof.Machine

/-! ### The fault status -/

/-- The reserved bits of `FSR`, one by one (R33). -/
theorem reservedFsrZero_iff (fsr : BitVec 64) :
    reservedFsrZero fsr = true ↔ ∀ k, 4 ≤ k → k ≠ 8 → fsr.getLsbD k = false := by
  have hmask : ∀ k : Fin 64, (~~~0x10F#64).getLsbD k.val = decide (4 ≤ k.val ∧ k.val ≠ 8) := by decide
  simp only [reservedFsrZero, beq_iff_eq]
  constructor
  · intro h k hk hk8
    by_cases h64 : k < 64
    · have hbit := congrArg (BitVec.getLsbD · k) h
      simpa [-BitVec.reduceNot, hmask ⟨k, h64⟩, hk, hk8] using hbit
    · exact BitVec.getLsbD_of_ge _ _ (by omega)
  · intro h
    refine BitVec.eq_of_getLsbD_eq fun k h64 => ?_
    rw [BitVec.getLsbD_and, hmask ⟨k, h64⟩]
    by_cases hk : 4 ≤ k ∧ k ≠ 8
    · simp [h k hk.1 hk.2]
    · simp [hk]

theorem FaultCause.code_le_five (c : FaultCause) : c.code.toNat ≤ 5 := by cases c <;> decide

theorem reservedFsrZero_recordFirst {fsr : BitVec 64} (c : BitVec 4) (h : reservedFsrZero fsr = true) :
    reservedFsrZero (recordFirst fsr c) = true := by
  rw [reservedFsrZero_iff] at h ⊢
  intro k hk hk8
  rw [getLsbD_recordFirst fsr c k hk, h k hk hk8]

theorem reservedFsrZero_withPf {fsr : BitVec 64} (h : reservedFsrZero fsr = true) :
    reservedFsrZero (withPf fsr) = true := by
  rw [reservedFsrZero_iff] at h ⊢
  intro k hk hk8
  rw [getLsbD_withPf, h k hk hk8, decide_eq_false hk8, Bool.or_false]

/-- A clear `FSR` is legal (R40, R241). -/
theorem fsr_zero_legal : reservedFsrZero 0#64 = true ∧ (fcode 0#64).toNat ≤ 5 := by decide

/-! ### Updates of the state -/

theorem State.Inv.complete {s : State} (h : s.Inv) (dout : Native) : (s.complete dout).Inv := { h with }

theorem State.Inv.accept {s : State} (h : s.Inv) (rest : List HostMove) (din : Native) : (s.accept rest din).Inv :=
  { h with }

theorem State.Inv.setX {s : State} (h : s.Inv) (r : XReg) (v : BitVec s.cfg.n) : (s.setX r v).Inv :=
  { h with xMasked := s.setX_xpat_lt r v h.xMasked }

theorem State.Inv.setF {s : State} (h : s.Inv) (r : FReg) (v : BitVec s.cfg.nf) : (s.setF r v).Inv :=
  { h with fMasked := s.setF_fpat_lt r v h.fMasked }

theorem State.Inv.setPf {s : State} (h : s.Inv) : s.setPf.Inv :=
  { h with fsrLegal := ⟨reservedFsrZero_withPf h.fsrLegal.1, by simpa using h.fsrLegal.2⟩ }

theorem State.Inv.clearFaults {s : State} (h : s.Inv) : s.clearFaults.Inv := { h with fsrLegal := fsr_zero_legal }

theorem State.Inv.raise {s : State} (h : s.Inv) (c : FaultCause) : (s.raise c).Inv := by
  obtain ⟨hreserved, hcode⟩ := h.fsrLegal
  refine { h with fsrLegal := ⟨reservedFsrZero_recordFirst c.code hreserved, ?_⟩ }
  rw [State.raise_fsr, fcode_recordFirst]
  split
  · exact c.code_le_five
  · exact hcode

theorem State.Inv.emptyText {s : State} (h : s.Inv) : s.emptyText.Inv := { h with clenBound := Nat.zero_le _ }

theorem State.Inv.appendChar {s t : State} {c : Byte} (h : s.Inv) (ht : s.appendChar c = some t) : t.Inv := by
  obtain ⟨hroom, rfl⟩ := (s.appendChar_eq_some t c).1 ht
  obtain ⟨hwf, hbelow⟩ := h.cbWf
  exact { h with
    cbWf := ⟨memWrite_wf s.cb s.clen c hwf, memWrite_below s.cfg.cbSize s.cb s.clen c hroom hbelow⟩
    clenBound := hroom }

theorem State.Inv.storeText {s t : State} {text : List Byte} (h : s.Inv) (ht : s.storeText text = some t) : t.Inv := by
  obtain ⟨hfits, rfl⟩ := (s.storeText_eq_some t text).1 ht
  obtain ⟨hwf, hbelow⟩ := h.cbWf
  exact { h with
    cbWf := ⟨memWriteList_wf text s.cb 0 hwf, memWriteList_below s.cfg.cbSize text s.cb 0 (by omega) hbelow⟩
    clenBound := hfits }

/-- A stored Decimal keeps the invariant where it is normalised itself (R37). -/
theorem State.Inv.storeDecimal {s t : State} {d : Decimal} (h : s.Inv) (hd : d.normalised = true)
    (ht : s.storeDecimal d = some t) : t.Inv := by
  obtain ⟨⟨hnine, hne, -⟩, -⟩ := (Decimal.normalised_iff d).1 hd
  have hdecimal : t.decimal = d := State.decimal_storeDecimal h.dmWf.1 hnine ht
  obtain ⟨hfits, rfl⟩ := (s.storeDigits_eq_some t d.sign d.cells).1 ht
  obtain ⟨hwf, hbelow⟩ := h.dmWf
  have hlen : 1 ≤ d.cells.length := by
    simpa [Decimal.cells, Nat.one_le_iff_ne_zero] using hne
  exact { h with
    dmWf := ⟨memWriteList_wf d.cells s.dm 0 hwf, memWriteList_below s.cfg.n d.cells s.dm 0 (by omega) hbelow⟩
    dlenBound := ⟨hlen, hfits⟩
    decimalNormalised := by rw [hdecimal, hd] }

/-- The reset state of every configuration in range has the invariant. -/
theorem State.resetWith_inv {c : Config} (h : c.InRange) : (State.resetWith c).Inv where
  inRange := h
  xMasked r := by rw [State.resetWith_xpat]; exact Nat.two_pow_pos _
  fMasked r := by rw [State.resetWith_fpat]; exact Nat.two_pow_pos _
  cbWf := ⟨rfl, rfl⟩
  clenBound := Nat.zero_le _
  dmWf := ⟨rfl, rfl⟩
  dlenBound := ⟨le_rfl, h.1⟩
  decimalNormalised := rfl
  fsrLegal := fsr_zero_legal

theorem State.Inv.assertReset {s : State} (h : s.Inv) (rest : List HostMove) : (s.assertReset rest).Inv :=
  { State.resetWith_inv h.inRange with }

/-! ### Effects -/

/-- Every command keeps the invariant. -/
theorem Effect.inv {i : Instr} {s t : State} (e : Effect s i t) (h : s.Inv) : t.Inv := by
  cases e with
  | respond dout => exact h.complete dout
  | writeX _ v dout => exact (h.setX _ v).complete dout
  | writeTwoX _ _ v w => exact ((h.setX _ v).setX _ w).complete _
  | parseFails a => exact (h.setX a _).setPf.complete _
  | writeF _ v => exact (h.setF _ v).complete _
  | fault _ => exact h.raise _
  | emptyText => exact h.emptyText.complete _
  | appendChar hu => exact (h.appendChar hu).complete _
  | storeText hu => exact (h.storeText hu).complete _
  | storeDecimal hu => exact (h.storeDecimal (b2d_normalised _) hu).complete _
  | storeDecimalAndText hu hw => exact ((h.storeDecimal (b2d_normalised _) hu).storeText hw).complete _
  | clearFaults => exact h.clearFaults.complete _

/-- Every step keeps the invariant. -/
theorem StepEffect.inv {s t : State} (e : StepEffect s t) (h : s.Inv) : t.Inv := by
  cases e with
  | idle _ => exact h
  | reset _ => exact h.assertReset _
  | command _ _ ht => exact (exec_effect ht).inv (h.accept _ _)
  | illegal _ _ => exact (h.accept _ _).raise _

end Sys2Proof.Machine

/-! ## The statements -/

namespace Sys2Proof.Machine

/-- Settles O1: each clause reads one field of the reset state. -/
theorem resetStateHasTheSpecValues : Obligations.ResetStateHasTheSpecValues := fun c =>
  ⟨State.resetWith_xpat c, State.resetWith_fpat c, rfl, rfl, rfl, rfl, rfl, rfl, rfl, rfl, rfl⟩

/-- Settles O2. -/
theorem invariantHoldsAtReset : Obligations.InvariantHoldsAtReset :=
  ⟨fun _ => State.resetWith_inv, State.resetWith_inv (by decide)⟩

/-- Settles O3, by the effects of a step. -/
theorem everyStepKeepsTheInvariant : Obligations.EveryStepKeepsTheInvariant :=
  fun _ _ h hstep => (step_effect hstep).2.inv h

/-- Settles O15, by the effects of a command. -/
theorem faultStatusHasThreeWriters : Obligations.FaultStatusHasThreeWriters := by
  intro i s t h
  rcases (exec_effect h).fsr_cases with hkept | hclrf | ⟨hparse, hrsp, hfsr⟩ | hfault
  · exact .inl hkept
  · exact .inr (.inl hclrf)
  · refine .inr (.inr (.inl ⟨hparse, hrsp, by rw [hfsr, pf_withPf], fun k hk => ?_⟩))
    rw [hfsr, getLsbD_withPf, decide_eq_false hk, Bool.or_false]
  · exact .inr (.inr (.inr hfault))

/-- Settles O17, by the effects of a step. -/
theorem configurationNeverChanges : Obligations.ConfigurationNeverChanges := by
  intro s t h
  have hcfg : t.cfg = s.cfg := (step_effect h).2.cfg_eq
  exact ⟨hcfg, State.csr_of_cfg_eq hcfg⟩

/-- Settles O18, by the effects of a command. -/
theorem onlyTheListedCommandsWriteEachState : Obligations.OnlyTheListedCommandsWriteEachState := by
  intro i s t h
  have e := exec_effect h
  exact ⟨e.keepsPorts, e.keepsX, e.keepsF, e.keepsText, e.keepsDecimal⟩

end Sys2Proof.Machine

/-! ## The command word and its decoding

The five fields of R70, `word = zero ++ C ++ B ++ A ++ op`: a word is its fields, `wordABC` puts them together, and a
format's mask keeps the fields that must be zero. -/

namespace Sys2Proof

/-! ### A word and its fields -/

/-- A word is determined by its five fields (R70). -/
theorem word_ext_iff (w v : CmdWord) :
    w = v ↔ zeroField w = zeroField v ∧ opField w = opField v ∧ fieldA w = fieldA v ∧ fieldB w = fieldB v ∧
      fieldC w = fieldC v := by
  constructor
  · rintro rfl
    exact ⟨rfl, rfl, rfl, rfl, rfl⟩
  · rintro ⟨hz, ho, ha, hb, hc⟩
    simp only [zeroField, opField, fieldA, fieldB, fieldC, Fin.ext_iff, Fin.val_ofNat] at hz ho ha hb hc
    exact BitVec.eq_of_toNat_eq (by omega)

/-- The number of a word put together from fields. -/
theorem wordABC_toNat {op : Nat} (hop : op < 2 ^ 8) (a b c : Fin 8) :
    (wordABC op a b c).toNat = op + a.val * 2 ^ 8 + b.val * 2 ^ 11 + c.val * 2 ^ 14 := by
  rw [wordABC, BitVec.toNat_ofNat, Nat.mod_eq_of_lt (by omega)]

/-- The fields of a word put together from fields (R70). -/
theorem wordABC_fields {op : Nat} (hop : op < 2 ^ 8) (a b c : Fin 8) :
    zeroField (wordABC op a b c) = 0 ∧ opField (wordABC op a b c) = op ∧ fieldA (wordABC op a b c) = a ∧
      fieldB (wordABC op a b c) = b ∧ fieldC (wordABC op a b c) = c := by
  simp only [zeroField, opField, fieldA, fieldB, fieldC, Fin.ext_iff, Fin.val_ofNat, wordABC_toNat hop]
  omega

theorem opField_lt (w : CmdWord) : opField w < 2 ^ 8 := Nat.mod_lt _ (by decide)

/-- A word whose reserved field is zero is put together from its own fields. -/
theorem wordABC_of_fields {w : CmdWord} (hz : zeroField w = 0) :
    wordABC (opField w) (fieldA w) (fieldB w) (fieldC w) = w := by
  obtain ⟨hz', hfields⟩ := wordABC_fields (opField_lt w) (fieldA w) (fieldB w) (fieldC w)
  exact (word_ext_iff _ _).2 ⟨hz'.trans hz.symm, hfields⟩

/-- The opcode read as bits 7:0. -/
theorem extractLsb'_eq_iff_opField (w : CmdWord) (op : BitVec 8) : w.extractLsb' 0 8 = op ↔ opField w = op.toNat := by
  rw [← BitVec.toNat_inj, BitVec.extractLsb'_toNat, Nat.shiftRight_zero, opField]

/-- `A` and `C` read as bits 10:8 and 16:14. -/
theorem extractLsb'_eq_iff_fields_eq (w : CmdWord) :
    w.extractLsb' 8 3 = w.extractLsb' 14 3 ↔ fieldA w = fieldC w := by
  simp only [← BitVec.toNat_inj, BitVec.extractLsb'_toNat, Nat.shiftRight_eq_div_pow, Fin.ext_iff, fieldA, fieldC,
    Fin.val_ofNat]

/-! ### Masks -/

theorem zeroField_and (w m : CmdWord) : zeroField (w &&& m) = zeroField w &&& zeroField m := by
  rw [zeroField, BitVec.toNat_and, Nat.and_div_two_pow, zeroField, zeroField]

theorem opField_and (w m : CmdWord) : opField (w &&& m) = opField w &&& opField m := by
  rw [opField, BitVec.toNat_and, Nat.and_mod_two_pow, opField, opField]

theorem fieldA_and (w m : CmdWord) : fieldA (w &&& m) = fieldA w &&& fieldA m := by
  simp only [fieldA, Fin.ext_iff, Fin.val_ofNat, Fin.and_val, BitVec.toNat_and, Nat.and_div_two_pow]
  exact Nat.and_mod_two_pow (n := 3)

theorem fieldB_and (w m : CmdWord) : fieldB (w &&& m) = fieldB w &&& fieldB m := by
  simp only [fieldB, Fin.ext_iff, Fin.val_ofNat, Fin.and_val, BitVec.toNat_and, Nat.and_div_two_pow]
  exact Nat.and_mod_two_pow (n := 3)

theorem fieldC_and (w m : CmdWord) : fieldC (w &&& m) = fieldC w &&& fieldC m := by
  simp only [fieldC, Fin.ext_iff, Fin.val_ofNat, Fin.and_val, BitVec.toNat_and, Nat.and_div_two_pow]
  exact Nat.and_mod_two_pow (n := 3)

/-- Every mask keeps the reserved field and the opcode (R71). -/
theorem mask_keeps (f : Format) (w : CmdWord) :
    zeroField (w &&& f.mask) = zeroField w ∧ opField (w &&& f.mask) = opField w := by
  have hz : zeroField f.mask = 2 ^ 15 - 1 := by cases f <;> rfl
  have hop : opField f.mask = 2 ^ 8 - 1 := by cases f <;> rfl
  rw [zeroField_and, opField_and, hz, hop]
  exact ⟨Nat.and_two_pow_sub_one_of_lt_two_pow (by simp only [zeroField]; omega),
    Nat.and_two_pow_sub_one_of_lt_two_pow (opField_lt w)⟩

/-- The register fields of a mask: ones where the format does not use the field (R71). -/
theorem mask_registerFields (f : Format) :
    fieldA f.mask = (if f = .z then 7 else 0) ∧ fieldB f.mask = (if f = .z ∨ f = .a then 7 else 0) ∧
      fieldC f.mask = (if f = .abc then 0 else 7) := by
  cases f <;> decide

/-- A mask keeps a register field that the format does not use and clears one that it uses, so the masked register fields
are zero exactly when the unused ones are (R71). -/
theorem mask_unusedFields (f : Format) (w : CmdWord) :
    (fieldA (w &&& f.mask) = 0 ∧ fieldB (w &&& f.mask) = 0 ∧ fieldC (w &&& f.mask) = 0) ↔
      unusedFieldsZero f (fieldA w) (fieldB w) (fieldC w) = true := by
  have hkept : ∀ r : Fin 8, r &&& 7 = r := by decide
  have hcleared : ∀ r : Fin 8, r &&& 0 = 0 := by decide
  obtain ⟨ha, hb, hc⟩ := mask_registerFields f
  simp only [fieldA_and, fieldB_and, fieldC_and, ha, hb, hc]
  cases f <;> simp [unusedFieldsZero, hkept, hcleared, and_assoc]

/-- A table row selects exactly the words with its opcode whose reserved and unused register fields are zero (R71, R72). -/
theorem OpRow.selects_iff {r : OpRow} (hr : r.pattern.toNat < 2 ^ 8) (w : CmdWord) :
    r.selects w = true ↔
      zeroField w = 0 ∧ opField w = r.pattern.toNat ∧
        unusedFieldsZero r.format (fieldA w) (fieldB w) (fieldC w) = true := by
  obtain ⟨hz, hop⟩ := mask_keeps r.format w
  have hpattern : wordABC r.pattern.toNat 0 0 0 = r.pattern := by simp [wordABC]
  obtain ⟨pz, pop, pa, pb, pc⟩ := hpattern ▸ wordABC_fields hr 0 0 0
  rw [OpRow.selects, beq_iff_eq, word_ext_iff, hz, hop, pz, pop, pa, pb, pc, mask_unusedFields]

/-! ### The opcode map -/

/-- The word that a format makes of an opcode and the register fields it uses (R71). -/
def formatWord : Format → Nat → Fin 8 → Fin 8 → Fin 8 → CmdWord
  | .z, op, _, _, _ => wordZ op
  | .a, op, a, _, _ => wordA op a
  | .ab, op, a, b, _ => wordAB op a b
  | .abc, op, a, b, c => wordABC op a b c

/-- Where the unused fields are zero, the format's word is the word of all three fields. -/
theorem formatWord_eq_wordABC {f : Format} {a b c : Fin 8} (h : unusedFieldsZero f a b c = true) (op : Nat) :
    formatWord f op a b c = wordABC op a b c := by
  cases f with
  | z =>
    obtain ⟨⟨rfl, rfl⟩, rfl⟩ : (a = 0 ∧ b = 0) ∧ c = 0 := by simpa [unusedFieldsZero] using h
    rfl
  | a =>
    obtain ⟨rfl, rfl⟩ : b = 0 ∧ c = 0 := by simpa [unusedFieldsZero] using h
    rfl
  | ab =>
    obtain rfl : c = 0 := by simpa [unusedFieldsZero] using h
    rfl
  | abc => rfl

/-- A command found in the opcode map is encoded with that opcode, in that format, with those fields (R73). -/
theorem encode_of_lookupOp {op : Nat} {a b c : Fin 8} {f : Format} {i : Instr} (h : lookupOp op a b c = some (f, i)) :
    encode i = formatWord f op a b c := by
  unfold lookupOp at h
  split at h <;> cases h <;> rfl

/-- The one ill-formed command the opcode map can answer is opcode 0x15 with `A = C` (R74, R163). -/
theorem wellFormed_of_lookupOp {op : Nat} {a b c : Fin 8} {f : Format} {i : Instr}
    (h : lookupOp op a b c = some (f, i)) : i.wellFormed = true ↔ ¬(op = 0x15 ∧ a = c) := by
  unfold lookupOp at h
  split at h <;> cases h <;> simp [Instr.wellFormed]

/-- An opcode in the map has a row in the table, with the same format (R73). -/
theorem exists_row_of_lookupOp {op : Nat} {a b c : Fin 8} {f : Format} {i : Instr}
    (h : lookupOp op a b c = some (f, i)) : ∃ r ∈ opTable, r.format = f ∧ r.pattern.toNat = op := by
  unfold lookupOp at h
  split at h <;> cases h <;> decide

/-- The format of an opcode does not depend on the register fields. -/
theorem lookupOp_format (op : Nat) (a b c : Fin 8) :
    (lookupOp op a b c).map Prod.fst = (lookupOp op 0 0 0).map Prod.fst := by
  unfold lookupOp
  split <;> rfl

/-- A row's opcode is in the map, with the row's format (R73). -/
theorem lookupOp_of_row {r : OpRow} (hr : r ∈ opTable) (a b c : Fin 8) :
    ∃ i, lookupOp r.pattern.toNat a b c = some (r.format, i) := by
  have hformat : ∀ r ∈ opTable, (lookupOp r.pattern.toNat 0 0 0).map Prod.fst = some r.format := by decide
  have h := (lookupOp_format _ a b c).trans (hformat r hr)
  obtain ⟨⟨f, i⟩, hi, rfl⟩ := Option.map_eq_some_iff.1 h
  exact ⟨i, hi⟩

/-! ### The table -/

theorem opTable_pattern_lt : ∀ r ∈ opTable, r.pattern.toNat < 2 ^ 8 := by decide

/-- No two rows have one opcode (R73). -/
theorem opTable_patterns_distinct : opTable.Pairwise fun r q => r.pattern.toNat ≠ q.pattern.toNat := by decide

/-! ### Decoding -/

/-- What `decode` accepts: a word that passes the four checks of R79. -/
theorem decode_eq_ok_iff (w : CmdWord) (i : Instr) :
    decode w = .ok i ↔
      zeroField w = 0 ∧ ∃ f, lookupOp (opField w) (fieldA w) (fieldB w) (fieldC w) = some (f, i) ∧
        unusedFieldsZero f (fieldA w) (fieldB w) (fieldC w) = true ∧ i.wellFormed = true := by
  unfold decode
  split
  next hz => simp [hz]
  next hz =>
    split
    next hl => simp [hl]
    next f j hl => split_ifs <;> grind

/-- The word put together from an opcode and register fields decodes to the well-formed command that the opcode map has for
them, where the fields that its format does not use are zero. -/
theorem decode_wordABC {op : Nat} {a b c : Fin 8} {f : Format} {i : Instr} (hop : op < 2 ^ 8)
    (hl : lookupOp op a b c = some (f, i)) (hu : unusedFieldsZero f a b c = true) (hi : i.wellFormed = true) :
    decode (wordABC op a b c) = .ok i := by
  obtain ⟨hz, ho, ha, hb, hc⟩ := wordABC_fields hop a b c
  rw [decode_eq_ok_iff, hz, ho, ha, hb, hc]
  exact ⟨rfl, f, hl, hu, hi⟩

/-- The decoding procedure of R79 accepts what the table's masks select (R72), the check on `DIVREM` apart. -/
theorem exists_decode_iff (w : CmdWord) :
    (∃ i, decode w = .ok i) ↔ (∃ r ∈ opTable, r.selects w = true) ∧ ¬(opField w = 0x15 ∧ fieldA w = fieldC w) := by
  simp only [decode_eq_ok_iff]
  constructor
  · rintro ⟨i, hz, f, hl, hu, hi⟩
    obtain ⟨r, hr, rfl, hop⟩ := exists_row_of_lookupOp hl
    exact ⟨⟨r, hr, (OpRow.selects_iff (opTable_pattern_lt r hr) w).2 ⟨hz, hop.symm, hu⟩⟩, (wellFormed_of_lookupOp hl).1 hi⟩
  · rintro ⟨⟨r, hr, hsel⟩, hdivrem⟩
    obtain ⟨hz, hop, hu⟩ := (OpRow.selects_iff (opTable_pattern_lt r hr) w).1 hsel
    obtain ⟨i, hl⟩ := lookupOp_of_row hr (fieldA w) (fieldB w) (fieldC w)
    rw [← hop] at hl
    exact ⟨i, hz, r.format, hl, hu, (wellFormed_of_lookupOp hl).2 hdivrem⟩

end Sys2Proof

/-! ## The step at which a command is presented -/

namespace Sys2Proof.Machine

/-- A presented command is run with the move taken off the list and its operand on the port (R285). -/
theorem step_present {s : State} {c : Command} {rest : List HostMove} (hc : s.cfg.InRange)
    (hp : s.pending = .present c :: rest) : step s = runCommand c.cw (s.accept rest c.din) := by
  rw [step, if_pos hc, hp]

theorem runCommand_of_decode_ok {cw : CmdWord} {i : Instr} (h : decode cw = .ok i) (s : State) :
    runCommand cw s = exec i s := by
  rw [runCommand, h]

/-- A word that decodes to no command takes the fault `IllegalCommand` (R79, R251). -/
theorem runCommand_of_decode_error {cw : CmdWord} {e : DecodeError} (h : decode cw = .error e) (s : State) :
    runCommand cw s = .next (s.raise .illegalCommand) := by
  rw [runCommand, h]
  rfl

/-- A step at which such a word is presented takes that fault and nothing else (R256). -/
theorem step_raises_of_decode_error {s : State} {c : Command} {rest : List HostMove} {e : DecodeError}
    (hc : s.cfg.InRange) (hp : s.pending = .present c :: rest) (h : decode c.cw = .error e) :
    ∃ t, step s = .next t ∧ Raises .illegalCommand (s.accept rest c.din) t :=
  ⟨_, (step_present hc hp).trans (runCommand_of_decode_error h _), State.raise_raises _ _⟩

/-! ## The statements about the encoding -/

/-- Settles O4. -/
theorem stepRunsTheDecodedCommand : Obligations.StepRunsTheDecodedCommand :=
  fun _ _ _ _ _ hc hp hd => ⟨(step_present hc hp).trans (runCommand_of_decode_ok hd _), rfl⟩

/-- Settles O7: `encode` puts the word of every command together from the opcode and fields that the opcode map has it under,
so one rule serves each of them. -/
theorem decodeOfEncodeIsTheCommand : Obligations.DecodeOfEncodeIsTheCommand := by
  intro i hi
  cases i <;> exact decode_wordABC (by decide) rfl rfl hi

/-- Settles O8: the accepted word is put together from its own fields, and so is the encoding of what they decode to. -/
theorem encodeOfDecodeIsTheWord : Obligations.EncodeOfDecodeIsTheWord := by
  intro w i h
  obtain ⟨hz, f, hl, hu, hi⟩ := (decode_eq_ok_iff w i).1 h
  refine ⟨?_, hi⟩
  calc encode i = formatWord f (opField w) (fieldA w) (fieldB w) (fieldC w) := encode_of_lookupOp hl
    _ = wordABC (opField w) (fieldA w) (fieldB w) (fieldC w) := formatWord_eq_wordABC hu _
    _ = w := wordABC_of_fields hz

/-- Settles O9: the fields read as bit ranges for the first clause, a split on what `decode` answers for the second. -/
theorem decoderAcceptsExactlyTheTableRows : Obligations.DecoderAcceptsExactlyTheTableRows := by
  intro w
  refine ⟨?_, ?_⟩
  · rw [exists_decode_iff, extractLsb'_eq_iff_opField, extractLsb'_eq_iff_fields_eq]
    rfl
  · cases h : decode w with
    | ok i => exact .inl ⟨i, rfl⟩
    | error e => exact .inr ⟨e, rfl, fun _ _ _ hc hp => step_raises_of_decode_error hc hp h⟩

/-- Settles O10: a word that two rows select has the opcode of both, and no two rows have one opcode. -/
theorem tableRowsDoNotOverlap : Obligations.TableRowsDoNotOverlap := by
  refine opTable_patterns_distinct.imp_of_mem fun {r q} hr hq hne w ⟨hselr, hselq⟩ => hne ?_
  obtain ⟨-, hopr, -⟩ := (OpRow.selects_iff (opTable_pattern_lt r hr) w).1 hselr
  obtain ⟨-, hopq, -⟩ := (OpRow.selects_iff (opTable_pattern_lt q hq) w).1 hselq
  exact hopr.symm.trans hopq

/-- Settles O11: each word is a literal, so the decoder is evaluated on it. -/
theorem sampleWordsDecodeRight : Obligations.SampleWordsDecodeRight := by
  unfold Obligations.SampleWordsDecodeRight
  decide

end Sys2Proof.Machine

/-! ## The integer commands of spec/40_integer_arith.md

### Widening and narrowing of native operands -/

namespace Sys2Proof.Machine

/-- Above and below the port's width, a signed operand is reduced modulo `2^n` (R101). -/
theorem fromSigned_eq_ofInt (n : Nat) (v : Native) : fromSigned n v = BitVec.ofInt n v.toInt := by
  unfold fromSigned
  split
  · rfl
  · next h => exact (BitVec.signExtend_eq_setWidth_of_le v (by omega)).symm

theorem toNat_fromSigned (n : Nat) (v : Native) : ((fromSigned n v).toNat : Int) = v.toInt % 2 ^ n := by
  rw [fromSigned_eq_ofInt, BitVec.toNat_ofInt, Int.toNat_of_nonneg (Int.emod_nonneg _ (by positivity))]
  push_cast
  rfl

theorem toNat_fromUnsigned (n : Nat) (v : Native) : (fromUnsigned n v).toNat = v.toNat % 2 ^ n :=
  BitVec.toNat_setWidth n v

/-- `STIS` and `STIU` of a register of 64 bits or more answer its low 64 bits (R106, R107). -/
theorem toSigned_of_le {n : Nat} (h : 64 ≤ n) (v : BitVec n) : toSigned v = v.setWidth 64 := if_pos h

/-- Up to 64 bits `STIS` keeps the signed value (R106). -/
theorem toInt_toSigned {n : Nat} (h : n ≤ 64) (v : BitVec n) : (toSigned v).toInt = v.toInt := by
  unfold toSigned
  split
  · next h64 =>
    obtain rfl : n = 64 := by omega
    rw [BitVec.setWidth_eq]
  · exact BitVec.toInt_signExtend_of_le h

/-- Up to 64 bits `STIU` keeps the unsigned value (R107). -/
theorem toNat_toUnsigned {n : Nat} (h : n ≤ 64) (v : BitVec n) : (toUnsigned v).toNat = v.toNat :=
  BitVec.toNat_setWidth_of_le h

end Sys2Proof.Machine

/-! ### The adder, the subtractor and the multiplier -/

namespace Sys2Proof.Machine

/-- Bit flip plus one is the negation modulo `2^n` (R111, R113). -/
theorem twosComplement_eq_neg {n : Nat} (v : BitVec n) : twosComplement v = -v := (BitVec.neg_eq_not_add v).symm

/-- The adder on the two's complement subtracts (R111). -/
theorem subWord_eq_sub {n : Nat} (a b : BitVec n) : subWord a b = a - b := by
  rw [subWord, twosComplement_eq_neg, addWord, BitVec.sub_eq_add_neg]

/-- The low `k + 1` bits of a word are its bit 0 and the low `k` bits of the word shifted right by one place. -/
theorem toNat_mod_two_pow_succ {n : Nat} (c : BitVec n) (k : Nat) :
    c.toNat % 2 ^ (k + 1) = (c.getLsbD 0).toNat + 2 * ((c >>> 1).toNat % 2 ^ k) := by
  rw [Nat.pow_succ', Nat.mod_mul, BitVec.toNat_ushiftRight, Nat.shiftRight_one, BitVec.getLsbD, Nat.toNat_testBit,
    Nat.pow_zero, Nat.div_one]

/-- Each iteration of R112 adds one bit's share of the product, so what is added in all is the multiplicand times the low `k`
bits of the multiplier. -/
theorem mulLoop_eq {n : Nat} (k : Nat) (acc m c : BitVec n) :
    mulLoop k acc m c = acc + m * BitVec.ofNat n (c.toNat % 2 ^ k) := by
  induction k generalizing acc m c with
  | zero => simp [mulLoop, Nat.mod_one]
  | succ k ih =>
    have hdouble : m <<< 1 = m * 2#n := BitVec.eq_of_toNat_eq (by simp [Nat.shiftLeft_eq])
    rw [mulLoop, ih, toNat_mod_two_pow_succ, hdouble, BitVec.ofNat_add, BitVec.ofNat_mul, mul_add, ← mul_assoc, ← add_assoc]
    cases c.getLsbD 0 with
    | false => simp
    | true => simp [addWord]

/-- The shift-and-add multiplier gives the low `n` bits of the product (R112). -/
theorem mulWord_eq_mul {n : Nat} (a b : BitVec n) : mulWord a b = a * b := by
  rw [mulWord, mulLoop_eq, Nat.mod_eq_of_lt b.isLt, BitVec.ofNat_toNat, BitVec.setWidth_eq, BitVec.zero_add]

end Sys2Proof.Machine

/-! ### The commands that write one register -/

namespace Sys2Proof.Machine

/-- The difference, read as an integer, is the difference of the unsigned values modulo `2^n`. -/
theorem toNat_subWord {n : Nat} (a b : BitVec n) : ((subWord a b).toNat : Int) = ((a.toNat : Int) - b.toNat) % 2 ^ n := by
  have hb := b.isLt.le
  rw [subWord_eq_sub, BitVec.toNat_sub]
  push_cast [hb]
  rw [show (2 : Int) ^ n - b.toNat + a.toNat = a.toNat - b.toNat + 2 ^ n by ring, Int.add_emod_right]

theorem toNat_twosComplement {n : Nat} (v : BitVec n) : (twosComplement v).toNat = (2 ^ n - v.toNat) % 2 ^ n := by
  rw [twosComplement_eq_neg, BitVec.toNat_neg]

theorem toNat_addWord_one {n : Nat} (v : BitVec n) : (addWord v 1#n).toNat = (v.toNat + 1) % 2 ^ n := by
  rw [addWord, BitVec.toNat_add, BitVec.toNat_ofNat, Nat.add_mod_mod]

theorem toNat_addWord_allOnes {n : Nat} (v : BitVec n) :
    (addWord v (BitVec.allOnes n)).toNat = (v.toNat + (2 ^ n - 1)) % 2 ^ n := by
  rw [addWord, BitVec.toNat_add, BitVec.toNat_allOnes]

/-- A command that writes `v` to `x[a]` and completes leaves there the number that `v` stands for, and changes nothing
else but the response. -/
theorem exec_writes_register {i : Instr} {a : XReg} {s : State} {v : BitVec s.cfg.n} {p : Nat}
    (h : exec i s = .next ((s.setX a v).complete 0#64)) (hv : v.toNat = p) :
    ∃ t, exec i s = .next t ∧ t.rsp = completedWith 0#64 ∧ t.xpat a = p ∧ OnlyX [a] s t :=
  ⟨_, h, rfl, by rw [State.complete_xpat, State.setX_xpat_self, hv], s.setX_complete_onlyX a v _⟩

/-- The same with the signed reading of the register written. -/
theorem exec_writes_register_signed {i : Instr} {a : XReg} {s : State} {v : BitVec s.cfg.n} {p : Nat} {z : Int}
    (h : exec i s = .next ((s.setX a v).complete 0#64)) (hv : v.toNat = p) (hz : v.toInt = z) :
    ∃ t, exec i s = .next t ∧ t.rsp = completedWith 0#64 ∧ t.xpat a = p ∧ (t.xreg a).toInt = z ∧ OnlyX [a] s t := by
  refine ⟨_, h, rfl, by rw [State.complete_xpat, State.setX_xpat_self, hv], ?_, s.setX_complete_onlyX a v _⟩
  rw [State.complete_xreg, State.setX_xreg_self]
  exact hz

/-- Settles O19: what is written is `fromSigned` of the operand, which reduces it at every width. -/
theorem loadSignedReducesModTwoToTheN : Obligations.LoadSignedReducesModTwoToTheN := by
  intro a s
  obtain ⟨t, ht, hrsp, hx, honly⟩ := exec_writes_register (i := .ldis a) (s := s) rfl rfl
  exact ⟨decodeOfEncodeIsTheCommand (.ldis a) rfl, t, ht, hrsp, by rw [hx, toNat_fromSigned], honly⟩

/-- Settles O20: the two commands answer one state. -/
theorem loadUnsignedAndRawReduceModTwoToTheN : Obligations.LoadUnsignedAndRawReduceModTwoToTheN := by
  intro a s
  obtain ⟨t, ht, hrest⟩ := exec_writes_register (i := .ldiu a) (s := s) rfl (toNat_fromUnsigned _ _)
  exact ⟨decodeOfEncodeIsTheCommand (.ldiu a) rfl, decodeOfEncodeIsTheCommand (.setraw a) rfl, t, ht, ht, hrest⟩

/-- Settles O21: `MOV` writes the pattern that it reads, `CLR` the zero pattern. -/
theorem moveCopiesAndClearZeroes : Obligations.MoveCopiesAndClearZeroes := fun a b _ =>
  ⟨decodeOfEncodeIsTheCommand (.mov a b) rfl, decodeOfEncodeIsTheCommand (.clr a) rfl,
    exec_writes_register rfl rfl, exec_writes_register rfl BitVec.toNat_zero⟩

/-- Settles O24: the sum of two bit vectors is the sum modulo `2^N` in both readings. -/
theorem addWrapsModTwoToTheN : Obligations.AddWrapsModTwoToTheN := fun a b _ =>
  ⟨decodeOfEncodeIsTheCommand (.add a b) rfl,
    exec_writes_register_signed rfl (BitVec.toNat_add _ _) (BitVec.toInt_add _ _)⟩

/-- Settles O26: the adder on a two's complement is subtraction, and `NEG` is the two's complement alone. -/
theorem subtractAndNegateWrap : Obligations.SubtractAndNegateWrap := by
  intro a b s
  obtain ⟨t, ht, hrsp, hx, honly⟩ := exec_writes_register (i := .sub a b) (s := s) rfl rfl
  exact ⟨decodeOfEncodeIsTheCommand (.sub a b) rfl, decodeOfEncodeIsTheCommand (.neg a b) rfl,
    ⟨t, ht, hrsp, by rw [hx, toNat_subWord], honly⟩, exec_writes_register rfl (toNat_twosComplement _)⟩

/-- Settles O27: `INC` and `DEC` are the adder with 1 and with the all-ones pattern. -/
theorem complementIncrementDecrement : Obligations.ComplementIncrementDecrement := fun a b _ =>
  ⟨decodeOfEncodeIsTheCommand (.not a b) rfl, decodeOfEncodeIsTheCommand (.inc a) rfl,
    decodeOfEncodeIsTheCommand (.dec a) rfl, exec_writes_register rfl BitVec.toNat_not,
    exec_writes_register rfl (toNat_addWord_one _), exec_writes_register rfl (toNat_addWord_allOnes _)⟩

/-- Settles O28: the loop computes the product of two bit vectors. -/
theorem multiplyGivesTheLowProduct : Obligations.MultiplyGivesTheLowProduct := fun a b s =>
  ⟨decodeOfEncodeIsTheCommand (.mul a b) rfl,
    exec_writes_register_signed rfl (by rw [mulWord_eq_mul, BitVec.toNat_mul]) (by rw [mulWord_eq_mul, BitVec.toInt_mul])⟩

/-- Settles O22: truncation from 64 bits on, extension up to 64 bits; at `N = 64` both are the identity. -/
theorem storeNativeExtendsOrTruncates : Obligations.StoreNativeExtendsOrTruncates := fun a s =>
  ⟨decodeOfEncodeIsTheCommand (.stis a) rfl, decodeOfEncodeIsTheCommand (.stiu a) rfl,
    ⟨_, _, rfl, rfl, s.complete_onlyResponse _, fun h => by rw [toSigned_of_le h, BitVec.toNat_setWidth],
      fun h => toInt_toSigned h _⟩,
    ⟨_, _, rfl, rfl, s.complete_onlyResponse _, fun _ => BitVec.toNat_setWidth 64 _, fun h => toNat_toUnsigned h _⟩⟩

/-! ### `SUB` after `ADD` -/

/-- A frame with no exception for the register that was written, where it holds its old pattern again. -/
theorem OnlyX.of_restored {a : XReg} {s t : State} (h : OnlyX [a] s t) (ha : t.xpat a = s.xpat a) : OnlyX [] s t :=
  { h with
    xs := fun r _ => by
      by_cases hr : r = a
      · rw [hr, ha]
      · exact h.xs r (by simpa using hr) }

theorem KeepsPorts.trans {s t u : State} (h : KeepsPorts s t) (h' : KeepsPorts t u) : KeepsPorts s u :=
  ⟨h'.cfg.trans h.cfg, h'.pending.trans h.pending, h'.din.trans h.din⟩

theorem KeepsF.trans {rs : List FReg} {s t u : State} (h : KeepsF rs s t) (h' : KeepsF rs t u) : KeepsF rs s u :=
  fun r hr => (h' r hr).trans (h r hr)

theorem KeepsText.trans {s t u : State} (h : KeepsText s t) (h' : KeepsText t u) : KeepsText s u := by
  obtain ⟨hlen, hcells⟩ := h
  obtain ⟨hlen', hcells'⟩ := h'
  exact ⟨hlen'.trans hlen, fun i => (hcells' i).trans (hcells i)⟩

theorem KeepsDecimal.trans {s t u : State} (h : KeepsDecimal s t) (h' : KeepsDecimal t u) : KeepsDecimal s u := by
  obtain ⟨hlen, hsign, hcells⟩ := h
  obtain ⟨hlen', hsign', hcells'⟩ := h'
  exact ⟨hlen'.trans hlen, hsign'.trans hsign, fun k => (hcells' k).trans (hcells k)⟩

theorem OnlyX.trans {rs : List XReg} {s t u : State} (h : OnlyX rs s t) (h' : OnlyX rs t u) : OnlyX rs s u :=
  ⟨h.ports.trans h'.ports, h.xs.trans h'.xs, h.fs.trans h'.fs, h.text.trans h'.text, h.decimal.trans h'.decimal,
    h'.fsr.trans h.fsr⟩

/-- The subtractor undoes the adder (R117). -/
theorem subWord_addWord {n : Nat} (a b : BitVec n) : subWord (addWord a b) b = a := by
  rw [subWord_eq_sub, addWord, BitVec.add_sub_cancel]

/-- Every other integer register reads as before. -/
theorem State.setX_xreg_of_ne (s : State) (r q : XReg) (v : BitVec s.cfg.n) (h : q ≠ r) :
    (s.setX r v).xreg q = s.xreg q :=
  congrArg (BitVec.ofNat s.cfg.n) (s.setX_xpat_of_ne r q v h)

/-- Settles O29: `SUB` reads the sum and the `x[B]` that `ADD` read. -/
theorem subtractUndoesAdd : Obligations.SubtractUndoesAdd := by
  intro a b s hab hmask
  have hvalue : (subWord ((s.setX a (addWord (s.xreg a) (s.xreg b))).xreg a)
      ((s.setX a (addWord (s.xreg a) (s.xreg b))).xreg b)).toNat = s.xpat a := by
    rw [State.setX_xreg_self, State.setX_xreg_of_ne s a b _ hab.symm]
    exact (congrArg BitVec.toNat (subWord_addWord _ _)).trans (Nat.mod_eq_of_lt hmask)
  obtain ⟨u, hu, -, hx, honly⟩ := exec_writes_register (i := .sub a b)
    (s := (s.setX a (addWord (s.xreg a) (s.xreg b))).complete 0#64) rfl hvalue
  exact ⟨_, u, rfl, hu, hx, ((s.setX_complete_onlyX a _ _).trans honly).of_restored hx⟩

end Sys2Proof.Machine

/-! ### The block adder (R110)

The loop and the mask are followed through the number that a list of blocks stands for; a list of blocks is determined by that
number and its length. -/

namespace Sys2Proof.Machine

/-- Lists of blocks of one length that stand for one number are equal (R51). -/
theorem eq_of_blocksValue_eq {as bs : List Byte} (hl : as.length = bs.length) (hv : blocksValue as = blocksValue bs) :
    as = bs := by
  induction as generalizing bs with
  | nil => exact (List.length_eq_zero_iff.1 hl.symm).symm
  | cons a as ih =>
    obtain ⟨b, bs, rfl⟩ := List.exists_cons_of_length_eq_add_one hl.symm
    simp only [blocksValue] at hv
    have ha := a.isLt
    have hb := b.isLt
    have htail : as = bs := ih (Nat.succ.inj hl) (by omega)
    rw [BitVec.eq_of_toNat_eq (by omega : a.toNat = b.toNat), htail]

/-- A block before a number of blocks, reduced modulo a multiple of a block. -/
theorem block_add_mod (b : Byte) (x m : Nat) : (b.toNat + 256 * x) % (256 * m) = b.toNat + 256 * (x % m) := by
  have hb := b.isLt
  rw [Nat.mod_mul, show (b.toNat + 256 * x) / 256 = x by omega]
  omega

/-! #### The blocks of a register -/

theorem length_blocksFrom {n : Nat} (v : BitVec n) (j k : Nat) : (blocksFrom v j k).length = k := by
  induction k generalizing j with
  | zero => rfl
  | succ k ih => rw [blocksFrom, List.length_cons, ih]

/-- `k` blocks from block `j` on stand for the bits from `8j` to `8(j + k)` (R24). -/
theorem blocksValue_blocksFrom {n : Nat} (v : BitVec n) (j k : Nat) :
    blocksValue (blocksFrom v j k) = v.toNat / 256 ^ j % 256 ^ k := by
  induction k generalizing j with
  | zero => rw [blocksFrom, blocksValue, Nat.pow_zero, Nat.mod_one]
  | succ k ih =>
    have hblock : (v.extractLsb' (8 * j) 8).toNat = v.toNat / 256 ^ j % 256 := by
      rw [BitVec.extractLsb'_toNat, Nat.shiftRight_eq_div_pow, Nat.pow_mul]
    rw [blocksFrom, blocksValue, ih, hblock, Nat.pow_succ' (n := k), Nat.mod_mul, Nat.div_div_eq_div_mul, ← Nat.pow_succ]

/-- The bits of all blocks are at least those of the register (R7). -/
theorem two_pow_dvd_nblocks (n : Nat) : 2 ^ n ∣ 256 ^ nblocks n := by
  rw [show 256 = 2 ^ 8 by rfl, ← Nat.pow_mul]
  exact Nat.pow_dvd_pow 2 (by unfold nblocks; omega)

theorem length_blocksOf {n : Nat} (v : BitVec n) : (blocksOf v).length = nblocks n := length_blocksFrom v 0 _

/-- The blocks of a register stand for its pattern (R24, R51). -/
theorem blocksValue_blocksOf {n : Nat} (v : BitVec n) : blocksValue (blocksOf v) = v.toNat := by
  rw [blocksOf, blocksValue_blocksFrom, Nat.pow_zero, Nat.div_one,
    Nat.mod_eq_of_lt (v.isLt.trans_le (Nat.le_of_dvd (by positivity) (two_pow_dvd_nblocks n)))]

/-! #### The loop -/

theorem length_addBlocksLoop {as bs : List Byte} (c : BitVec 16) (hl : as.length = bs.length) :
    (addBlocksLoop as bs c).length = as.length := by
  induction as generalizing bs c with
  | nil => rfl
  | cons a as ih =>
    obtain ⟨b, bs, rfl⟩ := List.exists_cons_of_length_eq_add_one hl.symm
    rw [addBlocksLoop, List.length_cons, List.length_cons, ih _ (Nat.succ.inj hl)]

/-- What the accumulator of one block sum keeps and what it carries on, given a carry of 0 or 1. -/
theorem accumulator_split (a b : Byte) {c : BitVec 16} (hc : c.toNat ≤ 1) :
    let acc := a.setWidth 16 + b.setWidth 16 + c
    (acc.extractLsb' 8 1 |>.setWidth 16).toNat ≤ 1 ∧
      a.toNat + b.toNat + c.toNat = (acc.extractLsb' 0 8).toNat + 256 * (acc.extractLsb' 8 1 |>.setWidth 16).toNat := by
  have ha := a.isLt
  have hb := b.isLt
  simp [Nat.shiftRight_eq_div_pow]
  omega

/-- The loop adds the numbers that the lists stand for and the carry; the carry out of the last block is dropped. -/
theorem blocksValue_addBlocksLoop {as bs : List Byte} {c : BitVec 16} (hl : as.length = bs.length) (hc : c.toNat ≤ 1) :
    blocksValue (addBlocksLoop as bs c) = (blocksValue as + blocksValue bs + c.toNat) % 256 ^ as.length := by
  induction as generalizing bs c with
  | nil => simp [addBlocksLoop, blocksValue, Nat.mod_one]
  | cons a as ih =>
    obtain ⟨b, bs, rfl⟩ := List.exists_cons_of_length_eq_add_one hl.symm
    obtain ⟨hcarry, hsum⟩ := accumulator_split a b hc
    rw [addBlocksLoop, blocksValue, ih (Nat.succ.inj hl) hcarry, List.length_cons, Nat.pow_succ', ← block_add_mod]
    congr 1
    simp only [blocksValue]
    omega

/-! #### The mask -/

theorem length_maskLast (n : Nat) (bs : List Byte) : (maskLast n bs).length = bs.length := by
  fun_induction maskLast n bs with
  | case1 => rfl
  | case2 b => rfl
  | case3 b c bs ih => rw [List.length_cons, ih]; rfl

/-- The mask of the last block keeps the bits below index `N`; `m` is `N` less 8 for each block before it. -/
theorem blocksValue_maskLast {n m : Nat} {bs : List Byte} (hm : m % 8 = n % 8) (hle : m ≤ 8 * bs.length)
    (hlt : 8 * bs.length < m + 8) : blocksValue (maskLast n bs) = blocksValue bs % 2 ^ m := by
  fun_induction maskLast n bs generalizing m with
  | case1 => simp [blocksValue]
  | case2 b =>
    have hb := b.isLt
    simp only [List.length_singleton] at hle hlt
    simp only [blocksValue]
    split
    · next h8 =>
      obtain rfl : m = 8 := by omega
      omega
    · next h8 =>
      have hmn : n % 8 = m := by omega
      have hpow : 2 ^ m < 2 ^ 8 := Nat.pow_lt_pow_right (by omega) (by omega)
      rw [hmn, BitVec.toNat_and, BitVec.toNat_ofNat, Nat.mod_eq_of_lt (by omega), Nat.and_two_pow_sub_one_eq_mod]
      rfl
  | case3 b c bs ih =>
    obtain ⟨k, rfl⟩ : ∃ k, m = 8 + k := ⟨m - 8, by simp only [List.length_cons] at hlt; omega⟩
    rw [List.length_cons] at hle hlt
    have htail := ih (m := k) (by omega) (by omega) (by omega)
    calc b.toNat + 256 * blocksValue (maskLast n (c :: bs))
        = b.toNat + 256 * (blocksValue (c :: bs) % 2 ^ k) := by rw [htail]
      _ = (b.toNat + 256 * blocksValue (c :: bs)) % 2 ^ (8 + k) := by rw [Nat.pow_add, ← block_add_mod]

/-- The block adder computes the number of the sum (R110). -/
theorem blocksValue_addBlocks {n : Nat} (a b : BitVec n) : blocksValue (addBlocks a b) = (a.toNat + b.toNat) % 2 ^ n := by
  have hlen : (blocksOf a).length = (blocksOf b).length := by rw [length_blocksOf, length_blocksOf]
  have hlast : 8 * (addBlocksLoop (blocksOf a) (blocksOf b) (0#16)).length = 8 * ((n + 7) / 8) := by
    rw [length_addBlocksLoop _ hlen, length_blocksOf, nblocks]
  rw [addBlocks, blocksValue_maskLast rfl (by omega) (by omega), blocksValue_addBlocksLoop hlen (by decide),
    length_blocksOf, blocksValue_blocksOf, blocksValue_blocksOf, BitVec.toNat_zero, Nat.add_zero,
    Nat.mod_mod_of_dvd _ (two_pow_dvd_nblocks n)]

/-- Settles O25: both lists have `NBLOCKS` blocks and stand for the sum. -/
theorem blockAdderEqualsTheAdder : Obligations.BlockAdderEqualsTheAdder := by
  intro n a b
  have hvalue := blocksValue_addBlocks a b
  have hlen : (addBlocks a b).length = (blocksOf (addWord a b)).length := by
    rw [addBlocks, length_maskLast, length_addBlocksLoop _ (by rw [length_blocksOf, length_blocksOf]), length_blocksOf,
      length_blocksOf]
  exact ⟨eq_of_blocksValue_eq hlen (by rw [hvalue, blocksValue_blocksOf, addWord, BitVec.toNat_add]), hvalue⟩

end Sys2Proof.Machine

/-! ### Rounding to nearest even (R206) -/

namespace Sys2Proof.Machine

theorem rneShift_fst (m sh : Nat) : (rneShift m sh).1 = m / 2 ^ sh := by
  unfold rneShift
  split
  · next h => rw [h, Nat.pow_zero, Nat.div_one]
  · rfl

/-- The low `j + 1` bits of a number are its bit `j` and the bits below it. -/
theorem mod_two_pow_succ_eq (m j : Nat) : m % 2 ^ (j + 1) = m % 2 ^ j + 2 ^ j * (m.testBit j).toNat := by
  rw [Nat.mod_pow_succ, Nat.toNat_testBit]

/-- The round bit and the sticky bit together: whether a bit below the guard bit is set (R206). -/
theorem round_or_sticky_eq (m j : Nat) :
    ((decide (2 ≤ j + 1) && m.testBit (j + 1 - 2)) || (decide (3 ≤ j + 1) && decide (m % 2 ^ (j + 1 - 2) ≠ 0))) =
      decide (m % 2 ^ j ≠ 0) := by
  cases j with
  | zero => simp [Nat.mod_one]
  | succ i =>
    have hlow : i = 0 → m % 2 ^ i = 0 := by rintro rfl; exact Nat.mod_one m
    rw [mod_two_pow_succ_eq, show i + 1 + 1 - 2 = i by omega]
    cases m.testBit i with
    | false => simp; omega
    | true => simp

/-- R206 rounds up where the bits shifted out are more than half a unit, or half a unit and the retained bits are odd. -/
theorem rneShift_snd (m sh : Nat) :
    (rneShift m sh).2 =
      if 2 ^ sh < 2 * (m % 2 ^ sh) ∨ (2 * (m % 2 ^ sh) = 2 ^ sh ∧ m / 2 ^ sh % 2 = 1) then 1 else 0 := by
  cases sh with
  | zero => simp [rneShift, Nat.mod_one]
  | succ j =>
    have hlow : m % 2 ^ j < 2 ^ j := Nat.mod_lt _ (by positivity)
    have hunit : 2 ^ (j + 1) = 2 * 2 ^ j := Nat.pow_succ'
    have hbits : (rneShift m (j + 1)).2 =
        (m.testBit j && (decide (m / 2 ^ (j + 1) % 2 = 1) || decide (m % 2 ^ j ≠ 0))).toNat := by
      rw [rneShift, if_neg (Nat.succ_ne_zero j)]
      simp only [Bool.or_assoc, round_or_sticky_eq, Nat.testBit_zero, Nat.add_sub_cancel]
    rw [hbits, mod_two_pow_succ_eq]
    generalize m / 2 ^ (j + 1) % 2 = lsb
    cases m.testBit j with
    | false => simp; omega
    | true =>
      by_cases hz : m % 2 ^ j = 0
      · by_cases hl : lsb = 1 <;> simp [hz, hl, hunit]
      · simp [hz]; omega

theorem rneShift_snd_le_one (m sh : Nat) : (rneShift m sh).2 ≤ 1 := by
  rw [rneShift_snd]
  split <;> omega

/-- The retained bits and the increment are the multiple of `2^sh` nearest to `m`, the even one on a tie (R206). -/
theorem rneShift_nearest (m sh : Nat) :
    2 * |((((rneShift m sh).1 + (rneShift m sh).2) * 2 ^ sh : Nat) : Int) - m| ≤ 2 ^ sh ∧
    (2 * |((((rneShift m sh).1 + (rneShift m sh).2) * 2 ^ sh : Nat) : Int) - m| = 2 ^ sh →
      ((rneShift m sh).1 + (rneShift m sh).2) % 2 = 0) := by
  have hrem : m % 2 ^ sh < 2 ^ sh := Nat.mod_lt _ (by positivity)
  have hdist (up : Nat) : ((((m / 2 ^ sh + up) * 2 ^ sh : Nat) : Int) - m) = up * 2 ^ sh - (m % 2 ^ sh : Nat) := by
    nth_rw 2 [← Nat.div_add_mod' m (2 ^ sh)]
    push_cast
    ring
  have hunit : ((2 ^ sh : Nat) : Int) = 2 ^ sh := by push_cast; rfl
  rw [rneShift_fst, rneShift_snd, hdist, ← hunit]
  generalize m % 2 ^ sh = rem at *
  generalize 2 ^ sh = unit at *
  split
  · next hup =>
    rw [abs_of_nonneg (by omega)]
    omega
  · next hdown =>
    rw [abs_of_nonpos (by omega)]
    omega

end Sys2Proof.Machine

/-! ### The fields and the value of a binary64 pattern (R12) -/

namespace Sys2Proof.Machine

/-- The fields of a pattern put together from fields. -/
theorem dblPattern_fields (sign : Bool) {ef fr : Nat} (hef : ef < 2 ^ 11) (hfr : fr < 2 ^ 52) :
    dblSign (dblPattern sign ef fr) = sign ∧ dblExp (dblPattern sign ef fr) = ef ∧ dblFrac (dblPattern sign ef fr) = fr := by
  have hs := Bool.toNat_lt sign
  have hnat : (dblPattern sign ef fr).toNat = sign.toNat * 2 ^ 63 + ef * 2 ^ 52 + fr := by
    rw [dblPattern, BitVec.toNat_ofNat, Nat.mod_eq_of_lt (by omega)]
  refine ⟨?_, ?_, ?_⟩
  · rw [dblSign, BitVec.getLsbD, hnat, Nat.testBit_eq_decide_div_mod_eq]
    cases sign with
    | false => simp; omega
    | true => simp; omega
  · rw [dblExp, BitVec.extractLsb'_toNat, hnat, Nat.shiftRight_eq_div_pow]
    omega
  · rw [dblFrac, BitVec.extractLsb'_toNat, hnat, Nat.shiftRight_zero]
    omega

/-- A fraction that has overflowed is the next exponent with fraction 0. -/
theorem dblPattern_carry (sign : Bool) (ef : Nat) : dblPattern sign ef (2 ^ 52) = dblPattern sign (ef + 1) 0 :=
  congrArg (BitVec.ofNat 64) (by omega)

/-- The value of a normal pattern (R12). -/
theorem dblValue_dblPattern (sign : Bool) {ef fr : Nat} (hef : ef < 2 ^ 11) (hpos : 0 < ef) (hfr : fr < 2 ^ 52) :
    dblValue (dblPattern sign ef fr) = signFactor sign * ((2 ^ 52 + fr : Nat) * 2 ^ ((ef : Int) - 1075)) := by
  obtain ⟨hsign, hexp, hfrac⟩ := dblPattern_fields sign hef hfr
  have hscale : (2 : ℚ) ^ ((ef : Int) - 1023) = 2 ^ 52 * 2 ^ ((ef : Int) - 1075) := by
    rw [← zpow_natCast, ← zpow_add₀ (by norm_num)]
    congr 1
    push_cast
    ring
  rw [dblValue, hsign, hexp, hfrac, if_neg hpos.ne', hscale]
  push_cast
  field_simp
  norm_num

/-- The pattern of a 53-bit significand, or of one that rounding has carried to `2^53`: its sign, that it is normal, its value
and the parity of its fraction. -/
theorem dblPattern_of_significand (sign : Bool) {ef m : Nat} (hpos : 0 < ef) (hef : ef + 1 < 0x7FF) (hm : 2 ^ 52 ≤ m)
    (hm' : m ≤ 2 ^ 53) :
    dblSign (dblPattern sign ef (m - 2 ^ 52)) = sign ∧ dblExp (dblPattern sign ef (m - 2 ^ 52)) ≠ 0 ∧
    dblExp (dblPattern sign ef (m - 2 ^ 52)) ≠ 0x7FF ∧
    dblValue (dblPattern sign ef (m - 2 ^ 52)) = signFactor sign * (m * 2 ^ ((ef : Int) - 1075)) ∧
    dblFrac (dblPattern sign ef (m - 2 ^ 52)) % 2 = m % 2 := by
  rcases hm'.lt_or_eq with hlt | rfl
  · obtain ⟨hsign, hexp, hfrac⟩ := dblPattern_fields sign (ef := ef) (fr := m - 2 ^ 52) (by omega) (by omega)
    rw [dblValue_dblPattern sign (by omega) hpos (by omega), hsign, hexp, hfrac, Nat.add_sub_of_le hm]
    exact ⟨rfl, by omega, by omega, rfl, by omega⟩
  · obtain ⟨hsign, hexp, hfrac⟩ := dblPattern_fields sign (ef := ef + 1) (fr := 0) (by omega) (by omega)
    rw [show 2 ^ 53 - 2 ^ 52 = 2 ^ 52 by rfl, dblPattern_carry, dblValue_dblPattern sign (by omega) (by omega) (by omega),
      hsign, hexp, hfrac]
    refine ⟨rfl, by omega, by omega, ?_, by omega⟩
    rw [show ((ef + 1 : Nat) : Int) - 1075 = ef - 1075 + 1 by push_cast; ring, zpow_add_one₀ (by norm_num)]
    push_cast
    ring

end Sys2Proof.Machine

/-! ### `I2D` -/

namespace Sys2Proof.Machine

/-- The significand that R108 gives a magnitude: 53 bits, or `2^53` where rounding carries. -/
def roundedSignificand (mag : Nat) : Nat :=
  if Nat.log2 mag ≤ 52 then mag * 2 ^ (52 - Nat.log2 mag)
  else (rneShift mag (Nat.log2 mag - 52)).1 + (rneShift mag (Nat.log2 mag - 52)).2

/-- Up to 52 bits below the leading one, nothing is rounded off. -/
theorem roundedSignificand_of_le {mag : Nat} (h : Nat.log2 mag ≤ 52) :
    roundedSignificand mag = mag * 2 ^ (52 - Nat.log2 mag) := if_pos h

theorem roundedSignificand_of_gt {mag : Nat} (h : 52 < Nat.log2 mag) :
    roundedSignificand mag =
      (rneShift mag (Nat.log2 mag - 52)).1 + (rneShift mag (Nat.log2 mag - 52)).2 := if_neg (by omega)

/-- A shift that leaves 53 bits of a number with its leading one in place. -/
theorem shifted_bounds {mag : Nat} (h : mag ≠ 0) (hk : 52 < Nat.log2 mag) :
    2 ^ 52 ≤ (rneShift mag (Nat.log2 mag - 52)).1 ∧ (rneShift mag (Nat.log2 mag - 52)).1 < 2 ^ 53 := by
  obtain ⟨sh, hsh⟩ : ∃ sh, Nat.log2 mag = 52 + sh := ⟨Nat.log2 mag - 52, by omega⟩
  have hlow := Nat.log2_self_le h
  have hhigh := Nat.lt_log2_self (n := mag)
  rw [hsh, Nat.pow_add] at hlow
  rw [hsh, show 52 + sh + 1 = 53 + sh by omega, Nat.pow_add] at hhigh
  rw [rneShift_fst, hsh, Nat.add_sub_cancel_left]
  exact ⟨(Nat.le_div_iff_mul_le (by positivity)).2 hlow, (Nat.div_lt_iff_lt_mul (by positivity)).2 hhigh⟩

theorem roundedSignificand_bounds {mag : Nat} (h : mag ≠ 0) :
    2 ^ 52 ≤ roundedSignificand mag ∧ roundedSignificand mag ≤ 2 ^ 53 := by
  rcases Nat.lt_or_ge 52 (Nat.log2 mag) with hk | hk
  · obtain ⟨hlow, hhigh⟩ := shifted_bounds h hk
    have hup := rneShift_snd_le_one mag (Nat.log2 mag - 52)
    rw [roundedSignificand_of_gt hk]
    omega
  · have hscale : 2 ^ Nat.log2 mag * 2 ^ (52 - Nat.log2 mag) = 2 ^ 52 := by rw [← Nat.pow_add, Nat.add_sub_of_le hk]
    have hlow := Nat.mul_le_mul_right (2 ^ (52 - Nat.log2 mag)) (Nat.log2_self_le h)
    have hhigh := Nat.mul_le_mul_right (2 ^ (52 - Nat.log2 mag)) (Nat.lt_log2_self (n := mag)).le
    rw [roundedSignificand_of_le hk]
    rw [Nat.pow_succ] at hhigh
    constructor <;> linarith

/-- R108 in one form for both of its cases. -/
theorem intToDouble_eq {v : Int} (hv : v ≠ 0) :
    intToDouble v =
      dblPattern (decide (v < 0)) (Nat.log2 v.natAbs + 1023) (roundedSignificand v.natAbs - 2 ^ 52) := by
  have hmag : v.natAbs ≠ 0 := Int.natAbs_ne_zero.2 hv
  rcases Nat.lt_or_ge 52 (Nat.log2 v.natAbs) with hk | hk
  · obtain ⟨hlow, -⟩ := shifted_bounds hmag hk
    simp only [intToDouble, if_neg hv, if_neg hk.not_ge, roundedSignificand_of_gt hk, dblPattern]
    exact congrArg (BitVec.ofNat 64) (by omega)
  · simp only [intToDouble, if_neg hv, if_pos hk, roundedSignificand_of_le hk]
    rw [Nat.sub_mul, ← Nat.pow_add, Nat.add_sub_of_le hk]

/-- Up to 52 bits below the leading one, the scaled significand is the magnitude. -/
theorem roundedSignificand_exact {mag : Nat} (h : Nat.log2 mag ≤ 52) :
    (roundedSignificand mag : ℚ) * 2 ^ ((Nat.log2 mag : Int) - 52) = mag := by
  have hscale : (2 : ℚ) ^ (52 - Nat.log2 mag) * 2 ^ ((Nat.log2 mag : Int) - 52) = 1 := by
    rw [← zpow_natCast, ← zpow_add₀ (by norm_num), Nat.cast_sub h]
    simp
  rw [roundedSignificand_of_le h]
  push_cast
  rw [mul_assoc, hscale, mul_one]

/-- `2^53`, the one magnitude up to `2^53` with more than 52 bits below its leading one, is exact too. -/
theorem roundedSignificand_two_pow_53 : roundedSignificand (2 ^ 53) = 2 ^ 52 := by decide

/-- The scaled significand is off by at most half a unit, and even at exactly that distance. -/
theorem roundedSignificand_nearest (mag : Nat) :
    |(roundedSignificand mag : ℚ) * 2 ^ ((Nat.log2 mag : Int) - 52) - mag| * 2 ^ 53 ≤ 2 ^ Nat.log2 mag ∧
    (|(roundedSignificand mag : ℚ) * 2 ^ ((Nat.log2 mag : Int) - 52) - mag| * 2 ^ 53 = 2 ^ Nat.log2 mag →
      roundedSignificand mag % 2 = 0) := by
  rcases Nat.lt_or_ge 52 (Nat.log2 mag) with hk | hk
  · obtain ⟨hle, htie⟩ := rneShift_nearest mag (Nat.log2 mag - 52)
    rw [← roundedSignificand_of_gt hk] at hle htie
    have hscale : (2 : ℚ) ^ ((Nat.log2 mag : Int) - 52) = 2 ^ (Nat.log2 mag - 52) := by
      rw [← zpow_natCast, Nat.cast_sub hk.le]
      rfl
    have hunit : (2 : ℚ) ^ Nat.log2 mag = 2 ^ 52 * 2 ^ (Nat.log2 mag - 52) := by
      rw [← pow_add, Nat.add_sub_of_le hk.le]
    rw [hscale, hunit]
    qify at hle htie
    generalize |(roundedSignificand mag : ℚ) * 2 ^ (Nat.log2 mag - 52) - mag| = dist at *
    exact ⟨by linarith, fun h => mod_cast htie (by linarith)⟩
  · rw [roundedSignificand_exact hk, sub_self, abs_zero, zero_mul]
    exact ⟨by positivity, fun h => absurd h (by positivity)⟩

theorem abs_signFactor (sign : Bool) : |signFactor sign| = 1 := by
  cases sign <;> simp [signFactor]

/-- An integer is its sign and its magnitude. -/
theorem signFactor_mul_natAbs (v : Int) : signFactor (decide (v < 0)) * (v.natAbs : ℚ) = v := by
  rw [Nat.cast_natAbs]
  rcases lt_or_ge v 0 with hv | hv
  · simp [signFactor, hv, abs_of_neg hv]
  · simp [signFactor, hv.not_gt, abs_of_nonneg hv]

/-- Magnitude and error of a number whose sign is that of the integer it stands for. -/
theorem abs_signFactor_mul_sub (v : Int) {x : ℚ} (hx : 0 ≤ x) :
    |signFactor (decide (v < 0)) * x| = x ∧ |signFactor (decide (v < 0)) * x - v| = |x - v.natAbs| := by
  constructor
  · rw [abs_mul, abs_signFactor, one_mul, abs_of_nonneg hx]
  · rw [← signFactor_mul_natAbs v, ← mul_sub, abs_mul, abs_signFactor, one_mul]

/-- The scaled significand of a magnitude up to `2^53` is the magnitude. -/
theorem roundedSignificand_exact_of_le {mag : Nat} (h : mag ≠ 0) (hle : mag ≤ 2 ^ 53) :
    (roundedSignificand mag : ℚ) * 2 ^ ((Nat.log2 mag : Int) - 52) = mag := by
  rcases hle.lt_or_eq with hlt | rfl
  · exact roundedSignificand_exact (Nat.lt_succ_iff.1 ((Nat.log2_lt h).2 hlt))
  · rw [roundedSignificand_two_pow_53, Nat.log2_two_pow]
    norm_num

/-- The value that R108 gives a non-zero integer: the scaled significand, with the integer's sign. -/
theorem intToDouble_value {v : Int} (hv : v ≠ 0) (hlt : v.natAbs < 2 ^ 64) :
    dblSign (intToDouble v) = decide (v < 0) ∧ dblExp (intToDouble v) ≠ 0 ∧ dblExp (intToDouble v) ≠ 0x7FF ∧
    dblValue (intToDouble v) = signFactor (decide (v < 0)) *
      (roundedSignificand v.natAbs * 2 ^ ((Nat.log2 v.natAbs : Int) - 52)) ∧
    dblFrac (intToDouble v) % 2 = roundedSignificand v.natAbs % 2 := by
  have hmag : v.natAbs ≠ 0 := Int.natAbs_ne_zero.2 hv
  have hk : Nat.log2 v.natAbs < 64 := (Nat.log2_lt hmag).2 hlt
  obtain ⟨hlow, hhigh⟩ := roundedSignificand_bounds hmag
  have hexp : ((Nat.log2 v.natAbs + 1023 : Nat) : Int) - 1075 = (Nat.log2 v.natAbs : Int) - 52 := by omega
  rw [intToDouble_eq hv, ← hexp]
  exact dblPattern_of_significand (decide (v < 0)) (by omega) (by omega) hlow hhigh

/-- The scaled significand is not below the power of two under the magnitude. -/
theorem two_pow_log2_le_significand {mag : Nat} (h : mag ≠ 0) :
    (2 : ℚ) ^ Nat.log2 mag ≤ roundedSignificand mag * 2 ^ ((Nat.log2 mag : Int) - 52) := by
  have hlow : (2 : ℚ) ^ 52 ≤ roundedSignificand mag := by exact_mod_cast (roundedSignificand_bounds h).1
  calc (2 : ℚ) ^ Nat.log2 mag = 2 ^ 52 * 2 ^ ((Nat.log2 mag : Int) - 52) := by
        rw [← zpow_natCast, ← zpow_natCast, ← zpow_add₀ (by norm_num)]
        congr 1
        push_cast
        ring
    _ ≤ roundedSignificand mag * 2 ^ ((Nat.log2 mag : Int) - 52) := by gcongr

/-- The binary64 of a non-zero integer is normal, of its sign and in its binade or at the upper end, and nearest to it, with an
even fraction on a tie; up to `2^53` it is exact (R108). -/
theorem intToDouble_nearest {v : Int} (hv : v ≠ 0) (hlt : v.natAbs < 2 ^ 64) :
    dblSign (intToDouble v) = decide (v < 0) ∧ dblExp (intToDouble v) ≠ 0 ∧ dblExp (intToDouble v) ≠ 0x7FF ∧
    (2 : ℚ) ^ Nat.log2 v.natAbs ≤ |dblValue (intToDouble v)| ∧
    |dblValue (intToDouble v) - v| * 2 ^ 53 ≤ (2 : ℚ) ^ Nat.log2 v.natAbs ∧
    (|dblValue (intToDouble v) - v| * 2 ^ 53 = (2 : ℚ) ^ Nat.log2 v.natAbs → dblFrac (intToDouble v) % 2 = 0) ∧
    (v.natAbs ≤ 2 ^ 53 → dblValue (intToDouble v) = v) := by
  have hmag : v.natAbs ≠ 0 := Int.natAbs_ne_zero.2 hv
  obtain ⟨hsign, hexp, hexp', hvalue, hfrac⟩ := intToDouble_value hv hlt
  obtain ⟨habs, herror⟩ := abs_signFactor_mul_sub v
    (x := roundedSignificand v.natAbs * 2 ^ ((Nat.log2 v.natAbs : Int) - 52)) (by positivity)
  obtain ⟨hle, htie⟩ := roundedSignificand_nearest v.natAbs
  rw [hvalue, habs, herror, hfrac]
  refine ⟨hsign, hexp, hexp', two_pow_log2_le_significand hmag, hle, htie, fun hexact => ?_⟩
  rw [roundedSignificand_exact_of_le hmag hexact, signFactor_mul_natAbs]

/-- The integer that `I2D` converts: the signed reading of the `STIS` result (R106, R108). -/
theorem toInt_toSigned_eq {n : Nat} (v : BitVec n) :
    (toSigned v).toInt = if 64 ≤ n then (v.setWidth 64).toInt else v.toInt := by
  split
  · next h => rw [toSigned_of_le h]
  · next h => exact toInt_toSigned (by omega) v

/-- Settles O23: a native integer is below `2^64` in magnitude, and R108 rounds every such integer to nearest even. -/
theorem integerToDoubleRoundsToNearestEven : Obligations.IntegerToDoubleRoundsToNearestEven := by
  intro a s
  have hlow := (toSigned (s.xreg a)).le_toInt
  have hhigh := (toSigned (s.xreg a)).toInt_lt
  exact ⟨decodeOfEncodeIsTheCommand (.i2d a) rfl, _, _, _, rfl, rfl, s.complete_onlyResponse _, toInt_toSigned_eq _,
    fun hzero => by rw [hzero]; rfl, fun hne => intToDouble_nearest hne (by omega)⟩

end Sys2Proof.Machine

/-! ## The shift, compare and bit commands of spec/41_shift_compare_bits.md

### The shifter (R131 to R133) -/

namespace Sys2Proof.Machine

/-- The saturated left shift is what the shift gives of itself: every bit is shifted out (R131). -/
theorem shlWord_eq_shiftLeft {n : Nat} (v : BitVec n) (j : Nat) : shlWord v j = v <<< j := by
  unfold shlWord
  split
  · next h => exact (BitVec.shiftLeft_eq_zero h).symm
  · rfl

/-- The saturated right shift is what the shift gives of itself: every bit is the sign (R132). -/
theorem sraWord_eq_sshiftRight {n : Nat} (v : BitVec n) (j : Nat) : sraWord v j = v.sshiftRight j := by
  unfold sraWord
  split
  · next h =>
    refine BitVec.eq_of_getLsbD_eq fun i hi => ?_
    have hout : ¬j + i < n := by omega
    rw [BitVec.getLsbD_sshiftRight, if_neg hout]
    cases hm : v.msb <;> simp [hi]
  · rfl

/-- The left shift multiplies by a power of two modulo `2^n` (R131). -/
theorem toNat_shlWord {n : Nat} (v : BitVec n) (j : Nat) : (shlWord v j).toNat = v.toNat * 2 ^ j % 2 ^ n := by
  rw [shlWord_eq_shiftLeft, BitVec.toNat_shiftLeft, Nat.shiftLeft_eq]

/-- A pattern is its signed value modulo `2^n` (R10). -/
theorem toNat_eq_toInt_emod {n : Nat} (v : BitVec n) : (v.toNat : Int) = v.toInt % 2 ^ n := by
  rw [BitVec.toInt_eq_toNat_bmod, show (2 : Int) ^ n = (2 ^ n : Nat) by push_cast; rfl, Int.bmod_emod]
  exact (Int.emod_eq_of_lt (Int.natCast_nonneg _) (by exact_mod_cast v.isLt)).symm

/-- The right shift is the floor of the signed value divided by a power of two (R132). -/
theorem toNat_sraWord {n : Nat} (v : BitVec n) (j : Nat) : ((sraWord v j).toNat : Int) = v.toInt / 2 ^ j % 2 ^ n := by
  rw [toNat_eq_toInt_emod, sraWord_eq_sshiftRight, BitVec.toInt_sshiftRight, Int.shiftRight_eq_div_pow]
  push_cast
  rfl

theorem shiftLeftBy_of_nonneg {n : Nat} (v : BitVec n) {k : Int} (h : 0 ≤ k) : shiftLeftBy v k = shlWord v k.toNat :=
  if_pos h

theorem shiftLeftBy_of_neg {n : Nat} (v : BitVec n) {k : Int} (h : k < 0) : shiftLeftBy v k = sraWord v (-k).toNat :=
  if_neg (Int.not_le.2 h)

theorem shiftRightBy_of_nonneg {n : Nat} (v : BitVec n) {k : Int} (h : 0 ≤ k) : shiftRightBy v k = sraWord v k.toNat :=
  if_pos h

theorem shiftRightBy_of_neg {n : Nat} (v : BitVec n) {k : Int} (h : k < 0) : shiftRightBy v k = shlWord v (-k).toNat :=
  if_neg (Int.not_le.2 h)

/-- Settles O30: the shifts saturate by themselves, so one formula each way holds for every amount. -/
theorem shiftsMultiplyOrFloorDivide : Obligations.ShiftsMultiplyOrFloorDivide := by
  intro a s
  obtain ⟨t, ht, hrsp, hx, honly⟩ := exec_writes_register (i := .shl a) (s := s) rfl rfl
  obtain ⟨u, hu, hrsp', hx', honly'⟩ := exec_writes_register (i := .shr a) (s := s) rfl rfl
  refine ⟨decodeOfEncodeIsTheCommand (.shl a) rfl, decodeOfEncodeIsTheCommand (.shr a) rfl,
    ⟨t, ht, hrsp, honly, fun h => ?_, fun h => ?_⟩, ⟨u, hu, hrsp', honly', fun h => ?_, fun h => ?_⟩⟩
  · rw [hx, State.sdin, shiftLeftBy_of_nonneg _ h, toNat_shlWord]
  · rw [hx, State.sdin, shiftLeftBy_of_neg _ h, toNat_sraWord]
  · rw [hx', State.sdin, shiftRightBy_of_nonneg _ h, toNat_sraWord]
  · rw [hx', State.sdin, shiftRightBy_of_neg _ h, toNat_shlWord]

/-- `1 << i` is the word with bit `i` alone set: the mask of R150 and R151. -/
theorem getLsbD_one_shiftLeft {n i : Nat} (hi : i < n) (j : Nat) : (1#n <<< i).getLsbD j = decide (i = j) := by
  rw [← BitVec.twoPow_eq, BitVec.getLsbD_twoPow, decide_eq_true hi, Bool.true_and]

/-- The single-bit right shift of R133 is the arithmetic right shift by one place. -/
theorem sraOne_eq_sshiftRight {n : Nat} (v : BitVec n) : sraOne v = v.sshiftRight 1 := by
  refine BitVec.eq_of_getLsbD_eq fun i hi => ?_
  have hfill : (if v.msb then 1#n <<< (n - 1) else 0#n).getLsbD i = (v.msb && decide (n - 1 = i)) := by
    cases v.msb
    · exact BitVec.getLsbD_zero
    · exact getLsbD_one_shiftLeft (by omega) i
  rw [sraOne, BitVec.getLsbD_or, BitVec.getLsbD_ushiftRight, hfill, BitVec.getLsbD_sshiftRight,
    decide_eq_false (Nat.not_le.2 hi), Bool.not_false, Bool.true_and]
  by_cases hlast : 1 + i < n
  · rw [if_pos hlast, decide_eq_false (by omega), Bool.and_false, Bool.or_false]
  · rw [if_neg hlast, BitVec.getLsbD_of_ge v _ (by omega), decide_eq_true (by omega), Bool.and_true, Bool.false_or]

theorem iterate_shlOne {n : Nat} (j : Nat) (v : BitVec n) : iterate shlOne j v = v <<< j := by
  induction j generalizing v with
  | zero => exact (BitVec.shiftLeft_zero v).symm
  | succ j ih => rw [iterate, ih, shlOne, ← BitVec.shiftLeft_add, Nat.add_comm]

theorem iterate_sraOne {n : Nat} (j : Nat) (v : BitVec n) : iterate sraOne j v = v.sshiftRight j := by
  induction j generalizing v with
  | zero => exact BitVec.sshiftRight_zero.symm
  | succ j ih => rw [iterate, ih, sraOne_eq_sshiftRight, ← BitVec.sshiftRight_add, Nat.add_comm]

/-- Settles O31: both sides are the shift by `j`. -/
theorem shiftsAreIteratedSingleBitShifts : Obligations.ShiftsAreIteratedSingleBitShifts := fun _ v j =>
  ⟨(iterate_shlOne j v).trans (shlWord_eq_shiftLeft v j).symm,
    (iterate_sraOne j v).trans (sraWord_eq_sshiftRight v j).symm⟩

end Sys2Proof.Machine

/-! ### The comparator (R134) -/

namespace Sys2Proof.Machine

/-- The scan from bit `i - 1` down compares the low `i` bits as unsigned numbers. -/
theorem lessFrom_iff {n : Nat} (a b : BitVec n) (i : Nat) :
    lessFrom a b i = true ↔ a.toNat % 2 ^ i < b.toNat % 2 ^ i := by
  induction i with
  | zero => simp [lessFrom, Nat.mod_one]
  | succ i ih =>
    have ha : a.toNat % 2 ^ i < 2 ^ i := Nat.mod_lt _ (by positivity)
    have hb : b.toNat % 2 ^ i < 2 ^ i := Nat.mod_lt _ (by positivity)
    rw [lessFrom, mod_two_pow_succ_eq a.toNat, mod_two_pow_succ_eq b.toNat, BitVec.testBit_toNat, BitVec.testBit_toNat]
    cases a.getLsbD i <;> cases b.getLsbD i
    · simpa using ih
    · exact iff_of_true rfl (by rw [Bool.toNat_false, Bool.toNat_true]; omega)
    · exact iff_of_false Bool.false_ne_true (by rw [Bool.toNat_false, Bool.toNat_true]; omega)
    · simpa using ih

/-- Among patterns of one sign, the scan below the sign bit is the unsigned order. -/
theorem lessFrom_of_msb_eq {n : Nat} {a b : BitVec n} (h : a.msb = b.msb) :
    lessFrom a b (n - 1) = true ↔ a.toNat < b.toNat := by
  have hall : lessFrom a b n = true ↔ a.toNat < b.toNat := by
    rw [lessFrom_iff, Nat.mod_eq_of_lt a.isLt, Nat.mod_eq_of_lt b.isLt]
  rw [← hall]
  cases n with
  | zero => rfl
  | succ m =>
    rw [BitVec.msb_eq_getLsbD_last, BitVec.msb_eq_getLsbD_last, Nat.add_sub_cancel] at h
    rw [lessFrom, h, Nat.add_sub_cancel, bne_self_eq_false, if_neg Bool.false_ne_true]

/-- The algorithm of R134 decides the signed order. -/
theorem lessBits_iff {n : Nat} (a b : BitVec n) : lessBits a b = true ↔ a.toInt < b.toInt := by
  have ha := a.isLt
  have hb := b.isLt
  have hscan := lessFrom_of_msb_eq (a := a) (b := b)
  rw [lessBits, BitVec.toInt_eq_msb_cond, BitVec.toInt_eq_msb_cond]
  cases hma : a.msb <;> cases hmb : b.msb
  · simpa using hscan (hma.trans hmb.symm)
  · exact iff_of_false Bool.false_ne_true (by rw [if_neg Bool.false_ne_true, if_pos rfl]; omega)
  · exact iff_of_true rfl (by rw [if_pos rfl, if_neg Bool.false_ne_true]; omega)
  · simpa using hscan (hma.trans hmb.symm)

theorem lessWord_iff {n : Nat} (a b : BitVec n) : lessWord a b = true ↔ a.toInt < b.toInt := decide_eq_true_iff

/-- The storage blocks determine the register (R24). -/
theorem blocksOf_injective {n : Nat} {a b : BitVec n} (h : blocksOf a = blocksOf b) : a = b :=
  BitVec.eq_of_toNat_eq (by rw [← blocksValue_blocksOf a, h, blocksValue_blocksOf])

/-- Settles O33: scan and signed order split on the two sign bits alike. -/
theorem bitwiseComparatorEqualsTheSignedOrder : Obligations.BitwiseComparatorEqualsTheSignedOrder := fun _ a b =>
  ⟨lessBits_iff a b, Bool.eq_iff_iff.2 ((lessBits_iff a b).trans (lessWord_iff a b).symm),
    blocksOf_injective, congrArg blocksOf⟩

/-- A command that answers whether `p` holds changes nothing but the response. -/
theorem exec_answers_truth {i : Instr} {s : State} {b : Bool} {p : Prop} [Decidable p]
    (h : exec i s = .next (s.complete (truth b))) (hp : b = true ↔ p) :
    ∃ t, exec i s = .next t ∧ OnlyResponse s t ∧ t.rsp = completedWith (if p then 1#64 else 0#64) := by
  refine ⟨_, h, s.complete_onlyResponse _, ?_⟩
  rw [State.complete_rsp, completedWith, truth, if_congr hp rfl rfl]

theorem equalWord_iff {n : Nat} (a b : BitVec n) : equalWord a b = true ↔ a.toNat = b.toNat :=
  decide_eq_true_iff.trans BitVec.toNat_inj.symm

theorem not_equalWord_iff {n : Nat} (a b : BitVec n) : (!equalWord a b) = true ↔ a.toNat ≠ b.toNat := by
  rw [Bool.not_eq_true', ← Bool.not_eq_true, equalWord_iff]

theorem not_lessWord_iff {n : Nat} (a b : BitVec n) : (!lessWord a b) = true ↔ b.toInt ≤ a.toInt := by
  rw [Bool.not_eq_true', ← Bool.not_eq_true, lessWord_iff, Int.not_lt]

/-- Settles O32: four of the compares are `less` or its negation, with the operands in either order. -/
theorem comparesReturnTheSignedRelation : Obligations.ComparesReturnTheSignedRelation := fun a b _ =>
  ⟨⟨decodeOfEncodeIsTheCommand (.ceq a b) rfl, decodeOfEncodeIsTheCommand (.cne a b) rfl,
      decodeOfEncodeIsTheCommand (.clt a b) rfl, decodeOfEncodeIsTheCommand (.cgt a b) rfl,
      decodeOfEncodeIsTheCommand (.cle a b) rfl, decodeOfEncodeIsTheCommand (.cge a b) rfl⟩,
    exec_answers_truth rfl (equalWord_iff _ _), exec_answers_truth rfl (not_equalWord_iff _ _),
    exec_answers_truth rfl (lessWord_iff _ _), exec_answers_truth rfl (lessWord_iff _ _),
    exec_answers_truth rfl (not_lessWord_iff _ _), exec_answers_truth rfl (not_lessWord_iff _ _)⟩

end Sys2Proof.Machine

/-! ### `MSB`, bit and block access (R141, R150 to R154) -/

namespace Sys2Proof.Machine

/-- `msb(v)` is the index of a set bit with no set bit above it (R10). -/
theorem msbIndex_of_highest {v k : Nat} (hk : v.testBit k = true) (hhigh : ∀ j, k < j → v.testBit j = false) :
    msbIndex v = k := by
  have hle : 2 ^ k ≤ v := Nat.ge_two_pow_of_testBit hk
  have hlt : v < 2 ^ (k + 1) := Nat.lt_pow_two_of_testBit v hhigh
  have hne : v ≠ 0 := fun h => by simp [h] at hk
  rw [msbIndex, if_neg hne, (Nat.log2_eq_iff hne).2 ⟨hle, hlt⟩]

/-- Settles O34: a bit index is below `N < 2^63`, so it keeps its value as a signed 64-bit answer. -/
theorem msbFindsTheHighestSetBit : Obligations.MsbFindsTheHighestSetBit := by
  intro a s
  refine ⟨decodeOfEncodeIsTheCommand (.msb a) rfl, fun hn => ⟨_, _, rfl, rfl, s.complete_onlyResponse _, fun hzero => ?_,
    fun k hk hhigh => ?_⟩⟩
  · rw [hzero]; rfl
  · have hkn : k < s.cfg.n := BitVec.lt_of_getLsbD hk
    rw [msbIndex_of_highest hk hhigh]
    exact BitVec.toInt_ofInt_eq_self (by decide) (by omega) (by omega)

/-- A command whose index is at or above its bound takes the fault (R154). -/
theorem exec_raises_indexOutOfBounds {i : Instr} {s : State} {bound : Nat} {k : Nat → Result}
    (h : exec i s = withIndex s bound k) (hi : bound ≤ s.din.toNat) :
    ∃ t, exec i s = .next t ∧ Raises .indexOutOfBounds s t :=
  ⟨_, h.trans ((withIndex_eq s bound k).1 hi), s.raise_raises _⟩

/-- A command whose index is below its bound is its continuation on the index (R154). -/
theorem exec_eq_of_index_lt {i : Instr} {s : State} {bound : Nat} {k : Nat → Result}
    (h : exec i s = withIndex s bound k) (hi : s.din.toNat < bound) : exec i s = k s.din.toNat :=
  h.trans ((withIndex_eq s bound k).2 hi)

theorem exec_setb (a : XReg) (s : State) :
    exec (.setb a) s = withIndex s s.cfg.n fun i => .next ((s.setX a (setBit (s.xreg a) i)).complete 0#64) := rfl

theorem exec_rstb (a : XReg) (s : State) :
    exec (.rstb a) s = withIndex s s.cfg.n fun i => .next ((s.setX a (clearBit (s.xreg a) i)).complete 0#64) := rfl

theorem exec_tstb (a : XReg) (s : State) :
    exec (.tstb a) s = withIndex s s.cfg.n fun i => .next (s.complete (truth ((s.xreg a).getLsbD i))) := rfl

theorem exec_blkr (a : XReg) (s : State) :
    exec (.blkr a) s = withIndex s (nblocks s.cfg.n) fun k => .next (s.complete ((blockOf (s.xreg a) k).setWidth 64)) := rfl

theorem getLsbD_setBit {n : Nat} (v : BitVec n) {i : Nat} (hi : i < n) (j : Nat) :
    (setBit v i).getLsbD j = (v.getLsbD j || decide (j = i)) := by
  rw [setBit, BitVec.getLsbD_or, getLsbD_one_shiftLeft hi]
  simp only [eq_comm]

theorem getLsbD_clearBit {n : Nat} (v : BitVec n) {i : Nat} (hi : i < n) (j : Nat) :
    (clearBit v i).getLsbD j = (v.getLsbD j && decide (j ≠ i)) := by
  rw [clearBit, BitVec.getLsbD_and, BitVec.getLsbD_not, getLsbD_one_shiftLeft hi]
  by_cases hj : j < n
  · simp [hj, eq_comm]
  · rw [BitVec.getLsbD_of_ge v j (by omega), Bool.false_and, Bool.false_and]

/-- Settles O35: the index check decides between the fault and the bit operation on the index. -/
theorem bitAccessSetsClearsTestsOrFaults : Obligations.BitAccessSetsClearsTestsOrFaults := by
  intro a s
  refine ⟨decodeOfEncodeIsTheCommand (.setb a) rfl, decodeOfEncodeIsTheCommand (.rstb a) rfl,
    decodeOfEncodeIsTheCommand (.tstb a) rfl, fun hi => ⟨?_, ?_, ?_⟩, fun hi => ⟨?_, ?_, ?_⟩⟩
  · obtain ⟨t, ht, hrsp, hx, honly⟩ :=
      exec_writes_register (exec_eq_of_index_lt (exec_setb a s) hi) rfl
    exact ⟨t, ht, hrsp, honly, fun j => by rw [hx, BitVec.testBit_toNat, getLsbD_setBit _ hi]⟩
  · obtain ⟨t, ht, hrsp, hx, honly⟩ :=
      exec_writes_register (exec_eq_of_index_lt (exec_rstb a s) hi) rfl
    exact ⟨t, ht, hrsp, honly, fun j => by rw [hx, BitVec.testBit_toNat, getLsbD_clearBit _ hi]⟩
  · exact exec_answers_truth (exec_eq_of_index_lt (exec_tstb a s) hi) Iff.rfl
  · exact exec_raises_indexOutOfBounds (exec_setb a s) hi
  · exact exec_raises_indexOutOfBounds (exec_rstb a s) hi
  · exact exec_raises_indexOutOfBounds (exec_tstb a s) hi

/-- Block `k` is the digit of weight `256^k` of the pattern (R24, R152). -/
theorem toNat_blockOf {n : Nat} (v : BitVec n) (k : Nat) : (blockOf v k).toNat = v.toNat / 256 ^ k % 256 := by
  rw [blockOf, BitVec.extractLsb'_toNat, Nat.shiftRight_eq_div_pow, Nat.pow_mul]

/-- Settles O36: the index check decides between the fault and the block of the index. -/
theorem blockReadGivesTheByteOrFaults : Obligations.BlockReadGivesTheByteOrFaults := by
  intro a s
  refine ⟨decodeOfEncodeIsTheCommand (.blkr a) rfl, fun hk => ?_, exec_raises_indexOutOfBounds (exec_blkr a s)⟩
  refine ⟨_, _, exec_eq_of_index_lt (exec_blkr a s) hk, rfl, s.complete_onlyResponse _, ?_⟩
  rw [BitVec.toNat_setWidth_of_le (by decide), toNat_blockOf]

end Sys2Proof.Machine

/-! ## The division commands of spec/42_division.md

### The shift-and-subtract loop (R160 step 3) -/

namespace Sys2Proof.Machine

/-- The triple (subtractand, accumulator, quotient) of the division of `m` by `d` with `k` iterations to go. The subtractand
is the divisor `k - 1` places to the left, and `d / 2` after the last iteration, which halves it once more. -/
structure DivInvariant {w : Nat} (d m k : Nat) (t : BitVec w × BitVec w × BitVec w) : Prop where
  subtractand : t.1.toNat = d * 2 ^ k / 2
  accumulator_lt : t.2.1.toNat < d * 2 ^ k
  quotient_dvd : 2 ^ k ∣ t.2.2.toNat
  value : d * t.2.2.toNat + t.2.1.toNat = m

/-- Setting bit `k` of a word whose bits up to `k` are zero adds `2^k`. -/
theorem toNat_or_one_shiftLeft {w k : Nat} (hk : k < w) {q : BitVec w} (hq : 2 ^ (k + 1) ∣ q.toNat) :
    (q ||| 1#w <<< k).toNat = q.toNat + 2 ^ k := by
  have hbit : (1#w <<< k).toNat = 2 ^ k := by rw [← BitVec.twoPow_eq, BitVec.toNat_twoPow_of_lt hk]
  obtain ⟨c, hc⟩ := hq
  rw [BitVec.toNat_or, hbit, hc, Nat.two_pow_add_eq_or_of_lt (Nat.pow_lt_pow_succ Nat.one_lt_two)]

/-- One iteration subtracts `2^k` times the divisor where the accumulator holds it, and sets bit `k` of the quotient then. -/
theorem DivInvariant.divStep {w d m k : Nat} {t : BitVec w × BitVec w × BitVec w} (h : DivInvariant d m (k + 1) t) :
    DivInvariant d m k (divStep k t) := by
  obtain ⟨hsub, hacc, hdvd, hvalue⟩ := h
  obtain ⟨sub, acc, q⟩ := t
  have hdouble : d * 2 ^ (k + 1) = 2 * (d * 2 ^ k) := by rw [pow_succ]; ring
  have hhalf : d * 2 ^ (k + 1) / 2 = d * 2 ^ k := by omega
  simp only [hhalf] at hsub
  simp only [hdouble] at hacc
  have hshift : (sub >>> 1).toNat = d * 2 ^ k / 2 := by rw [BitVec.toNat_ushiftRight, hsub, Nat.shiftRight_one]
  have hdvd' : 2 ^ k ∣ q.toNat := (pow_dvd_pow 2 k.le_succ).trans hdvd
  unfold Machine.divStep
  split
  · next hle =>
    have hle' : d * 2 ^ k ≤ acc.toNat := hsub ▸ BitVec.le_def.1 hle
    have hk : k < w := by
      have hd : 0 < d := Nat.pos_of_mul_pos_right (by omega : 0 < d * 2 ^ k)
      refine (Nat.pow_lt_pow_iff_right Nat.one_lt_two).1 ?_
      calc 2 ^ k ≤ d * 2 ^ k := Nat.le_mul_of_pos_left _ hd
        _ < 2 ^ w := hsub ▸ sub.isLt
    have hq := toNat_or_one_shiftLeft hk hdvd
    have hrest : (acc - sub).toNat = acc.toNat - d * 2 ^ k := by rw [BitVec.toNat_sub_of_le hle, hsub]
    refine ⟨hshift, ?_, ?_, ?_⟩
    · simp only [hrest]; omega
    · simp only [hq]; exact hdvd'.add dvd_rfl
    · simp only [hq, hrest, mul_add]; simp only at hvalue; omega
  · next hlt =>
    have hlt' : acc.toNat < d * 2 ^ k := hsub ▸ BitVec.lt_def.1 (BitVec.not_le.1 hlt)
    exact ⟨hshift, hlt', hdvd', hvalue⟩

/-- The iterations to go lead to the end of the division. -/
theorem DivInvariant.divLoop {w d m k : Nat} {t : BitVec w × BitVec w × BitVec w} (h : DivInvariant d m k t) :
    DivInvariant d m 0 (divLoop k t) := by
  induction k generalizing t with
  | zero => exact h
  | succ k ih => exact ih h.divStep

/-- At the end the quotient and the accumulator are quotient and remainder of the division of natural numbers. -/
theorem DivInvariant.result {w d m : Nat} {t : BitVec w × BitVec w × BitVec w} (h : DivInvariant d m 0 t) :
    t.2.2.toNat = m / d ∧ t.2.1.toNat = m % d := by
  obtain ⟨-, hacc, -, hvalue⟩ := h
  rw [pow_zero, mul_one] at hacc
  obtain ⟨hdiv, hmod⟩ := (Nat.div_mod_unique (by omega)).2 ⟨(Nat.add_comm _ _).trans hvalue, hacc⟩
  exact ⟨hdiv.symm, hmod.symm⟩

/-- Aligning the highest set bits starts the division: the shifted divisor fits the width, and its double exceeds the dividend. -/
theorem DivInvariant.of_aligned {w : Nat} {a b : BitVec w} (hb : b.toNat ≠ 0) (hab : b.toNat ≤ a.toNat) :
    DivInvariant b.toNat a.toNat (Nat.log2 a.toNat - Nat.log2 b.toNat + 1)
      (b <<< (Nat.log2 a.toNat - Nat.log2 b.toNat), a, 0#w) := by
  have ha : a.toNat ≠ 0 := by omega
  have hlog : Nat.log2 b.toNat ≤ Nat.log2 a.toNat := (Nat.le_log2 ha).2 ((Nat.log2_self_le hb).trans hab)
  obtain ⟨shift, hshift⟩ := Nat.exists_eq_add_of_le hlog
  rw [hshift, Nat.add_sub_cancel_left]
  have hfits : b.toNat * 2 ^ shift < 2 ^ w :=
    calc b.toNat * 2 ^ shift < 2 ^ (Nat.log2 b.toNat + 1) * 2 ^ shift :=
          Nat.mul_lt_mul_of_pos_right Nat.lt_log2_self (by positivity)
      _ = 2 ^ (Nat.log2 a.toNat + 1) := by rw [← pow_add, hshift]; congr 1; omega
      _ ≤ 2 ^ w := Nat.pow_le_pow_right (by decide) ((Nat.log2_lt ha).2 a.isLt)
  refine ⟨?_, ?_, by simp, by simp⟩
  · rw [BitVec.toNat_shiftLeft, Nat.shiftLeft_eq, Nat.mod_eq_of_lt hfits, pow_succ, ← mul_assoc,
      Nat.mul_div_cancel _ (by decide)]
  · calc a.toNat < 2 ^ (Nat.log2 a.toNat + 1) := Nat.lt_log2_self
      _ = 2 ^ Nat.log2 b.toNat * 2 ^ (shift + 1) := by rw [← pow_add, hshift, add_assoc]
      _ ≤ b.toNat * 2 ^ (shift + 1) := Nat.mul_le_mul_right _ (Nat.log2_self_le hb)

/-! ### Magnitudes and signs (R160 steps 1 and 4) -/

theorem toInt_ne_zero {n : Nat} {v : BitVec n} (h : v ≠ 0#n) : v.toInt ≠ 0 :=
  fun h0 => h (BitVec.toInt_inj.1 (h0.trans BitVec.toInt_zero.symm))

/-- No magnitude exceeds that of the most negative pattern, `2^(n-1)`. -/
theorem two_mul_abs_toInt_le {n : Nat} (v : BitVec n) : 2 * |v.toInt| ≤ 2 ^ n := by
  have hupper := BitVec.two_mul_toInt_lt (x := v)
  have hlower := BitVec.le_two_mul_toInt (x := v)
  rcases abs_choice v.toInt with h | h <;> omega

/-- A signed value is its magnitude with its sign. -/
theorem toInt_eq_signed_natAbs {n : Nat} (v : BitVec n) :
    v.toInt = if v.msb then -(v.toInt.natAbs : Int) else v.toInt.natAbs := by
  rw [BitVec.msb_eq_toInt]
  split
  · next h => rw [Int.ofNat_natAbs_of_nonpos (of_decide_eq_true h).le, neg_neg]
  · next h => rw [Int.natAbs_of_nonneg (by simpa using h)]

/-- The extra bit holds the magnitude of every operand, the most negative one included (R160 step 1). -/
theorem toNat_magnitudeWide {n : Nat} (v : BitVec n) : (magnitudeWide v).toNat = v.toInt.natAbs := by
  have hlt : v.toInt.natAbs < 2 ^ (n + 1) := by
    have hle := two_mul_abs_toInt_le v
    have hpos : (0 : Int) < 2 ^ n := by positivity
    zify
    omega
  have hmag : magnitudeWide v = BitVec.ofInt (n + 1) v.toInt.natAbs := by
    have hsign := toInt_eq_signed_natAbs v
    rw [magnitudeWide, BitVec.signExtend, ← BitVec.ofInt_neg, ← apply_ite (BitVec.ofInt (n + 1))]
    congr 1
    split_ifs at hsign ⊢ <;> omega
  rw [hmag, BitVec.ofInt_natCast, BitVec.toNat_ofNat, Nat.mod_eq_of_lt hlt]

/-- Truncation to the operands' width goes past the restoring of the sign. -/
theorem setWidth_restoreSign {n w : Nat} (h : n ≤ w) (negative : Bool) (v : BitVec w) :
    (restoreSign negative v).setWidth n = restoreSign negative (v.setWidth n) := by
  cases negative with
  | false => rfl
  | true => exact BitVec.setWidth_neg_of_le h

/-- The truncated quotient is the quotient of the magnitudes with the sign of R160 step 4. -/
theorem ofInt_tdiv {n : Nat} (a b : BitVec n) :
    BitVec.ofInt n (a.toInt.tdiv b.toInt) =
      restoreSign (a.msb ^^ b.msb) (BitVec.ofNat n (a.toInt.natAbs / b.toInt.natAbs)) := by
  rw [← BitVec.ofInt_natCast, Int.ofNat_tdiv]
  conv_lhs => rw [toInt_eq_signed_natAbs a, toInt_eq_signed_natAbs b]
  cases a.msb <;> cases b.msb <;> simp [restoreSign, Int.neg_tdiv, Int.tdiv_neg, BitVec.ofInt_neg]

/-- The remainder of the truncating division is that of the magnitudes with the dividend's sign. -/
theorem ofInt_tmod {n : Nat} (a b : BitVec n) :
    BitVec.ofInt n (a.toInt.tmod b.toInt) =
      restoreSign a.msb (BitVec.ofNat n (a.toInt.natAbs % b.toInt.natAbs)) := by
  rw [← BitVec.ofInt_natCast, Int.ofNat_tmod]
  conv_lhs => rw [toInt_eq_signed_natAbs a, toInt_eq_signed_natAbs b]
  cases a.msb <;> cases b.msb <;> simp [restoreSign, Int.neg_tmod, Int.tmod_neg, BitVec.ofInt_neg]

/-- The engine divides truncating toward zero (R164). -/
theorem divideWord_eq {n : Nat} (a : BitVec n) {b : BitVec n} (hb : b ≠ 0#n) :
    divideWord a b = (BitVec.ofInt n (a.toInt.tdiv b.toInt), BitVec.ofInt n (a.toInt.tmod b.toInt)) := by
  have hb0 : (magnitudeWide b).toNat ≠ 0 := by
    rw [toNat_magnitudeWide]
    exact Int.natAbs_ne_zero.2 (toInt_ne_zero hb)
  unfold divideWord
  dsimp only
  split
  · next hlt =>
    have hlt' : a.toInt.natAbs < b.toInt.natAbs := by
      simpa only [BitVec.lt_def, toNat_magnitudeWide] using hlt
    have hq : a.toInt.tdiv b.toInt = 0 := by
      rw [← Int.natAbs_eq_zero, Int.natAbs_tdiv]; exact Nat.div_eq_of_lt hlt'
    have hr : a.toInt.tmod b.toInt = a.toInt := by
      have hid := Int.mul_tdiv_add_tmod a.toInt b.toInt
      rwa [hq, mul_zero, zero_add] at hid
    rw [hq, hr, BitVec.ofInt_toInt, BitVec.ofInt_ofNat]
  · next hge =>
    obtain ⟨hq, hr⟩ := (DivInvariant.of_aligned hb0 (BitVec.le_def.1 (BitVec.not_lt.1 hge))).divLoop.result
    rw [setWidth_restoreSign n.le_succ, setWidth_restoreSign n.le_succ, ← BitVec.ofNat_toNat, ← BitVec.ofNat_toNat, hq, hr,
      toNat_magnitudeWide, toNat_magnitudeWide, ofInt_tdiv, ofInt_tmod]

/-! ### The division identity (R117, R164) -/

theorem abs_tmod_lt {x y : Int} (hy : y ≠ 0) : |x.tmod y| < |y| := by
  rw [Int.abs_eq_natAbs, Int.abs_eq_natAbs, Int.natAbs_tmod]
  exact_mod_cast Nat.mod_lt _ (Int.natAbs_pos.2 hy)

/-- A remainder other than zero has the dividend's sign. -/
theorem tmod_eq_zero_or_neg_iff (x y : Int) : x.tmod y = 0 ∨ (x.tmod y < 0 ↔ x < 0) := by
  have hsign := Int.sign_tmod x y
  split at hsign
  · exact .inl (Int.sign_eq_zero_iff_zero.1 hsign)
  · exact .inr (by rw [← Int.sign_eq_neg_one_iff_neg, hsign, Int.sign_eq_neg_one_iff_neg])

/-- The remainder is smaller than the divisor, so `n` bits hold it. -/
theorem toInt_ofInt_tmod {n : Nat} (a : BitVec n) {b : BitVec n} (hb : b ≠ 0#n) :
    (BitVec.ofInt n (a.toInt.tmod b.toInt)).toInt = a.toInt.tmod b.toInt := by
  obtain ⟨hlower, hupper⟩ := abs_lt.1 (abs_tmod_lt (x := a.toInt) (toInt_ne_zero hb))
  have hrange := two_mul_abs_toInt_le b
  rw [BitVec.toInt_ofInt]
  exact Int.bmod_eq_of_le_mul_two (by push_cast; omega) (by push_cast; omega)

/-- Settles O39: the engine's results are those of the truncating division of integers, for which the identity holds, and
reduction modulo `2^n` keeps sums and products. -/
theorem divisionIdentityHolds : Obligations.DivisionIdentityHolds := by
  intro n a b hb
  rw [divideWord_eq a hb]
  refine ⟨?_, ?_, ?_⟩
  · calc addWord (mulWord (BitVec.ofInt n (a.toInt.tdiv b.toInt)) b) (BitVec.ofInt n (a.toInt.tmod b.toInt))
      _ = BitVec.ofInt n (a.toInt.tdiv b.toInt * b.toInt + a.toInt.tmod b.toInt) := by
        rw [mulWord_eq_mul, addWord, BitVec.ofInt_add, BitVec.ofInt_mul, BitVec.ofInt_toInt]
      _ = a := by rw [Int.tdiv_mul_add_tmod, BitVec.ofInt_toInt]
  · rw [toInt_ofInt_tmod a hb]
    exact abs_tmod_lt (toInt_ne_zero hb)
  · rw [toInt_ofInt_tmod a hb]
    exact tmod_eq_zero_or_neg_iff _ _

/-! ### `DIV`, `REM` and `DIVREM` (R161 to R163, R165) -/

/-- A command whose divisor is zero takes the fault (R165). -/
theorem exec_raises_divideByZero {i : Instr} {s : State} {a b : XReg} {k : BitVec s.cfg.n × BitVec s.cfg.n → Result}
    (h : exec i s = withQuotient s a b k) (hb : (s.xreg b).toNat = 0) :
    ∃ t, exec i s = .next t ∧ Raises .divideByZero s t :=
  ⟨_, h.trans ((withQuotient_eq s a b k).1 (BitVec.eq_of_toNat_eq (hb.trans BitVec.toNat_zero.symm))), s.raise_raises _⟩

/-- A command whose divisor is not zero is its continuation on quotient and remainder of the truncating division (R164). -/
theorem exec_eq_of_divisor_ne_zero {i : Instr} {s : State} {a b : XReg} {k : BitVec s.cfg.n × BitVec s.cfg.n → Result}
    (h : exec i s = withQuotient s a b k) (hb : (s.xreg b).toNat ≠ 0) :
    exec i s = k (BitVec.ofInt s.cfg.n ((s.xreg a).toInt.tdiv (s.xreg b).toInt),
      BitVec.ofInt s.cfg.n ((s.xreg a).toInt.tmod (s.xreg b).toInt)) := by
  have hb' : s.xreg b ≠ 0#s.cfg.n := fun h0 => hb ((congrArg BitVec.toNat h0).trans BitVec.toNat_zero)
  rw [h, (withQuotient_eq s a b k).2 hb', divideWord_eq _ hb']

theorem exec_div (a b : XReg) (s : State) :
    exec (.div a b) s = withQuotient s a b fun qr => .next ((s.setX a qr.1).complete 0#64) := rfl

theorem exec_rem (a b : XReg) (s : State) :
    exec (.rem a b) s = withQuotient s a b fun qr => .next ((s.setX a qr.2).complete 0#64) := rfl

theorem exec_divrem (a b c : XReg) (s : State) :
    exec (.divrem a b c) s = withQuotient s a b fun qr => .next (((s.setX a qr.1).setX c qr.2).complete 0#64) := rfl

/-- Settles O38: the three commands share the divisor check. -/
theorem zeroDivisorRaisesDivideByZero : Obligations.ZeroDivisorRaisesDivideByZero := fun a b c s hb =>
  ⟨exec_raises_divideByZero (exec_div a b s) hb, exec_raises_divideByZero (exec_rem a b s) hb,
    exec_raises_divideByZero (exec_divrem a b c s) hb⟩

/-- The pattern of an integer reduced to `n` bits (R10). -/
theorem toNat_ofInt_emod (n : Nat) (z : Int) : ((BitVec.ofInt n z).toNat : Int) = z % 2 ^ n := by
  rw [BitVec.toNat_ofInt, Int.toNat_of_nonneg (Int.emod_nonneg _ (by positivity))]
  push_cast
  rfl

/-- A command that writes an integer's pattern to `x[a]` and completes leaves there that integer modulo `2^N`. -/
theorem exec_writes_integer {i : Instr} {a : XReg} {s : State} {z : Int}
    (h : exec i s = .next ((s.setX a (BitVec.ofInt s.cfg.n z)).complete 0#64)) :
    ∃ t, exec i s = .next t ∧ t.rsp = completedWith 0#64 ∧ OnlyX [a] s t ∧ (t.xpat a : Int) = z % 2 ^ s.cfg.n := by
  obtain ⟨t, ht, hrsp, hx, honly⟩ := exec_writes_register h rfl
  exact ⟨t, ht, hrsp, honly, by rw [hx, toNat_ofInt_emod]⟩

/-- Two written integer registers and a response change nothing else. -/
theorem State.setX_setX_complete_onlyX (s : State) (a c : XReg) (v w : BitVec s.cfg.n) (d : Native) :
    OnlyX [a, c] s (((s.setX a v).setX c w).complete d) :=
  ⟨⟨rfl, rfl, rfl⟩, (s.setX_keepsX a v [a, c] (by simp)).trans ((s.setX a v).setX_keepsX c w [a, c] (by simp)),
    KeepsF.refl _ _, KeepsText.refl _, KeepsDecimal.refl _, rfl⟩

/-- A command that writes the patterns of two integers to two registers and completes leaves there those integers modulo
`2^N`. -/
theorem exec_writes_two_integers {i : Instr} {a c : XReg} {s : State} {y z : Int} (hac : a ≠ c)
    (h : exec i s = .next (((s.setX a (BitVec.ofInt s.cfg.n y)).setX c (BitVec.ofInt s.cfg.n z)).complete 0#64)) :
    ∃ t, exec i s = .next t ∧ t.rsp = completedWith 0#64 ∧ OnlyX [a, c] s t ∧
      (t.xpat a : Int) = y % 2 ^ s.cfg.n ∧ (t.xpat c : Int) = z % 2 ^ s.cfg.n := by
  have ha := ((s.setX a _).setX_xpat_of_ne c a (BitVec.ofInt s.cfg.n z) hac).trans
    (s.setX_xpat_self a (BitVec.ofInt s.cfg.n y))
  have hc := (s.setX a (BitVec.ofInt s.cfg.n y)).setX_xpat_self c (BitVec.ofInt s.cfg.n z)
  exact ⟨_, h, rfl, s.setX_setX_complete_onlyX a c _ _ _, (congrArg Nat.cast ha).trans (toNat_ofInt_emod _ _),
    (congrArg Nat.cast hc).trans (toNat_ofInt_emod _ _)⟩

/-- The word put together from an opcode and register fields is rejected where the opcode map has an ill-formed command for
them (R79 step 4). -/
theorem decode_wordABC_of_illFormed {op : Nat} {a b c : Fin 8} {f : Format} {i : Instr} (hop : op < 2 ^ 8)
    (hl : lookupOp op a b c = some (f, i)) (hu : unusedFieldsZero f a b c = true) (hi : i.wellFormed = false) :
    decode (wordABC op a b c) = .error .divremSameDestination := by
  obtain ⟨hz, ho, ha, hb, hc⟩ := wordABC_fields hop a b c
  simp [decode, hz, ho, ha, hb, hc, hl, hu, hi]

/-- Settles O37: the engine's results are those of the truncating division reduced to `N` bits, for every non-zero divisor. -/
theorem divisionTruncatesTowardZero : Obligations.DivisionTruncatesTowardZero := fun a b c s =>
  ⟨decodeOfEncodeIsTheCommand (.div a b) rfl, decodeOfEncodeIsTheCommand (.rem a b) rfl,
    fun hac => decodeOfEncodeIsTheCommand (.divrem a b c) (decide_eq_true hac),
    fun hac => decode_wordABC_of_illFormed (by decide) rfl rfl (decide_eq_false (not_not.2 hac)),
    fun hb => ⟨exec_writes_integer (exec_eq_of_divisor_ne_zero (exec_div a b s) hb),
      exec_writes_integer (exec_eq_of_divisor_ne_zero (exec_rem a b s) hb),
      fun hac => exec_writes_two_integers hac (exec_eq_of_divisor_ne_zero (exec_divrem a b c s) hb)⟩⟩

end Sys2Proof.Machine

/-! ## The Decimal and text commands of spec/43_decimal_text.md

### The value of a digit vector (R170) -/

namespace Sys2Proof.Machine

/-- A digit vector without a superfluous high zero has at least the value of its highest place. -/
theorem ten_pow_le_digitsValue {d : Nat} {ds : List Nat} (h : NoHighZero (d :: ds)) :
    10 ^ ds.length ≤ digitsValue (d :: ds) := by
  induction ds generalizing d with
  | nil =>
    have hd : d ≠ 0 := ((noHighZero_cons d []).1 h).2 rfl
    simp only [digitsValue, List.length_nil, Nat.pow_zero]
    omega
  | cons e ds ih =>
    have htail := ih ((noHighZero_cons d (e :: ds)).1 h).1
    rw [digitsValue, List.length_cons, Nat.pow_succ']
    omega

/-- Of the digit vectors of R170 only `[0]` has the value 0. -/
theorem NormalDigits.eq_zero_of_value {ds : List Nat} (h : NormalDigits ds) (hv : digitsValue ds = 0) : ds = [0] := by
  obtain ⟨-, hne, rfl | hz⟩ := h
  · rfl
  · obtain ⟨d, ds, rfl⟩ := List.exists_cons_of_ne_nil hne
    have hle := ten_pow_le_digitsValue hz
    have hpos : 0 < 10 ^ ds.length := by positivity
    omega

/-- A power of two has no more decimal digits than binary ones, and neither has anything below it. -/
theorem NormalDigits.length_le {ds : List Nat} {k : Nat} (h : NormalDigits ds) (hv : digitsValue ds ≤ 2 ^ k) :
    ds.length ≤ k + 1 := by
  obtain ⟨-, hne, rfl | hz⟩ := h
  · simp
  · obtain ⟨d, ds, rfl⟩ := List.exists_cons_of_ne_nil hne
    have hpow : 2 ^ ds.length ≤ 2 ^ k :=
      calc 2 ^ ds.length ≤ 10 ^ ds.length := Nat.pow_le_pow_left (by decide) _
        _ ≤ digitsValue (d :: ds) := ten_pow_le_digitsValue hz
        _ ≤ 2 ^ k := hv
    have := (Nat.pow_le_pow_iff_right (by decide)).1 hpow
    simp only [List.length_cons]
    omega

theorem Decimal.value_eq (d : Decimal) : d.value = (if d.sign then -1 else 1) * (digitsValue d.digits : Int) := by
  rw [Decimal.value]
  cases d.sign <;> simp

theorem Decimal.value_flip (d : Decimal) : d.flip.value = -d.value := by
  rw [Decimal.value_eq, Decimal.value_eq, Decimal.flip]
  cases d.sign <;> simp

/-- Digits of R170 make a normalised Decimal with any sign flag that zero may carry. -/
theorem Decimal.normalised_of_digits {sign : Bool} {ds : List Nat} (h : NormalDigits ds)
    (hs : digitsValue ds = 0 → sign = false) : Decimal.normalised { sign := sign, digits := ds } = true :=
  (Decimal.normalised_iff _).2 ⟨h, fun h0 => hs (congrArg digitsValue h0)⟩

/-- A normalised Decimal of value 0 has a clear sign flag. -/
theorem Decimal.sign_of_value_zero {d : Decimal} (h : d.normalised = true) (hv : digitsValue d.digits = 0) :
    d.sign = false := by
  obtain ⟨hdigits, hsign⟩ := (Decimal.normalised_iff d).1 h
  exact hsign (hdigits.eq_zero_of_value hv)

/-! ### `unpad` (R174) -/

theorem digitsValue_unpad (ds : List Nat) : digitsValue (unpad ds) = digitsValue ds := by
  fun_induction unpad ds with
  | case1 => rfl
  | case2 d => rfl
  | case3 d e ds h ih => rw [h] at ih; simp only [digitsValue] at ih ⊢; omega
  | case4 d e ds h ih => rw [digitsValue, ih]; rfl

theorem unpad_length_le (ds : List Nat) : (unpad ds).length ≤ ds.length := by
  fun_induction unpad ds with
  | case1 | case2 d => exact le_rfl
  | case3 d e ds h ih => simp
  | case4 d e ds h ih => exact Nat.succ_le_succ ih

theorem unpad_ne_nil {ds : List Nat} (h : ds ≠ []) : unpad ds ≠ [] := by
  fun_induction unpad ds with
  | case1 => exact absurd rfl h
  | case2 | case3 | case4 => exact List.cons_ne_nil _ _

theorem unpad_subset (ds : List Nat) : unpad ds ⊆ ds := by
  fun_induction unpad ds with
  | case1 | case2 d => exact List.Subset.refl _
  | case3 d e ds h ih => simp
  | case4 d e ds h ih => exact List.cons_subset_cons d ih

/-- Only a vector of zeros leaves a high zero, the digit at index 0 (R174). -/
theorem unpad_noHighZero (ds : List Nat) : unpad ds = [0] ∨ NoHighZero (unpad ds) := by
  have hsingle (d : Nat) : [d] = [0] ∨ NoHighZero [d] := by
    by_cases hd : d = 0 <;> simp [NoHighZero, hd]
  fun_induction unpad ds with
  | case1 => exact .inr noHighZero_nil
  | case2 d => exact hsingle d
  | case3 d e ds h ih => exact hsingle d
  | case4 d e ds h ih =>
    exact .inr ((noHighZero_cons d _).2 ⟨ih.resolve_left h, fun hnil => absurd hnil (unpad_ne_nil (List.cons_ne_nil e ds))⟩)

/-- `unpad` of any decimal digits gives digits of R170. -/
theorem unpad_normal {ds : List Nat} (h : ∀ d ∈ ds, d ≤ 9) (hne : ds ≠ []) : NormalDigits (unpad ds) :=
  ⟨fun d hd => h d (unpad_subset ds hd), unpad_ne_nil hne, unpad_noHighZero ds⟩

/-! ### The digit subtractor and the digit multiplier (R172, R173) -/

theorem digitsValue_eq_headD_tail (ds : List Nat) : digitsValue ds = ds.headD 0 + 10 * digitsValue ds.tail := by
  cases ds <;> rfl

theorem subDigits_le_nine (xs ys : List Nat) (b : Nat) : ∀ d ∈ subDigits xs ys b, d ≤ 9 := by
  induction xs generalizing ys b with
  | nil => simp [subDigits]
  | cons x xs ih => exact List.forall_mem_cons.2 ⟨by omega, ih _ _⟩

theorem subDigits_ne_nil {xs : List Nat} (h : xs ≠ []) (ys : List Nat) (b : Nat) : subDigits xs ys b ≠ [] := by
  obtain ⟨x, xs, rfl⟩ := List.exists_cons_of_ne_nil h
  exact List.cons_ne_nil _ _

/-- The digit subtractor subtracts the values, where the first operand's is the larger (R172). -/
theorem digitsValue_subDigits (xs ys : List Nat) (b : Nat) (hb : b ≤ 1) (hx : ∀ d ∈ xs, d ≤ 9)
    (hy : ∀ d ∈ ys, d ≤ 9) (hle : digitsValue ys + b ≤ digitsValue xs) :
    digitsValue (subDigits xs ys b) + digitsValue ys + b = digitsValue xs := by
  induction xs generalizing ys b with
  | nil =>
    simp only [digitsValue] at hle
    simp only [subDigits, digitsValue]
    omega
  | cons x xs ih =>
    obtain ⟨hx0, hxs⟩ := List.forall_mem_cons.1 hx
    have hy0 : ys.headD 0 ≤ 9 := by
      cases ys with
      | nil => simp
      | cons y ys => exact hy y List.mem_cons_self
    have htail := ih ys.tail (if x < ys.headD 0 + b then 1 else 0) (by split <;> omega) hxs
      (fun d hd => hy d (List.mem_of_mem_tail hd))
    rw [digitsValue_eq_headD_tail ys] at hle ⊢
    simp only [subDigits, digitsValue] at hle ⊢
    split at htail <;> split <;> omega

/-- A digit vector times a digit. -/
theorem digitsValue_mulDigit (xs : List Nat) (y c : Nat) : digitsValue (mulDigit xs y c) = digitsValue xs * y + c := by
  induction xs generalizing c with
  | nil => simp [mulDigit, digitsValue]
  | cons x xs ih =>
    simp only [mulDigit, digitsValue, ih, add_mul, mul_add, mul_assoc]
    omega

theorem mulDigit_le_nine (xs : List Nat) {y c : Nat} (hx : ∀ d ∈ xs, d ≤ 9) (hy : y ≤ 9) (hc : c ≤ 9) :
    ∀ d ∈ mulDigit xs y c, d ≤ 9 := by
  induction xs generalizing c with
  | nil => simpa [mulDigit] using hc
  | cons x xs ih =>
    obtain ⟨hx0, hxs⟩ := List.forall_mem_cons.1 hx
    have hprod : x * y ≤ 9 * 9 := Nat.mul_le_mul hx0 hy
    exact List.forall_mem_cons.2 ⟨by omega, ih hxs (by omega)⟩

theorem mulDigits_le_nine (xs ys : List Nat) : ∀ d ∈ mulDigits xs ys, d ≤ 9 := by
  cases ys with
  | nil => simp [mulDigits]
  | cons y ys => exact addDigits_le_nine _ _ 0

theorem mulDigits_ne_nil (xs ys : List Nat) : mulDigits xs ys ≠ [] := by
  cases ys with
  | nil => simp [mulDigits]
  | cons y ys => exact fun h => List.cons_ne_nil _ _ (addDigits_eq_nil h).2.1

/-- The digit multiplier multiplies the values (R173). -/
theorem digitsValue_mulDigits (xs ys : List Nat) (hx : ∀ d ∈ xs, d ≤ 9) (hy : ∀ d ∈ ys, d ≤ 9) :
    digitsValue (mulDigits xs ys) = digitsValue xs * digitsValue ys := by
  induction ys with
  | nil => rfl
  | cons y ys ih =>
    obtain ⟨hy0, hys⟩ := List.forall_mem_cons.1 hy
    rw [mulDigits, digitsValue_addDigits _ _ 0 (by omega) (mulDigit_le_nine xs hx hy0 (by omega))
      (List.forall_mem_cons.2 ⟨by omega, mulDigits_le_nine xs ys⟩), digitsValue_mulDigit]
    simp only [digitsValue, ih hys]
    ring

/-! ### `dec_add`, `dec_sub`, `dec_mul` (R171 to R173) -/

/-- `z` is the normalised Decimal of the value `v`. -/
def Decimal.Represents (z : Decimal) (v : Int) : Prop := z.value = v ∧ z.normalised = true

/-- The addition of one sign; of the second operand's sign flag nothing is asked where it is zero. -/
theorem decAddSame_represents {x y : Decimal} (hs : x.sign = y.sign) (hx : x.normalised = true)
    (hy : NormalDigits y.digits) : (decAddSame x y).Represents (x.value + y.value) := by
  obtain ⟨hxd, -⟩ := (Decimal.normalised_iff x).1 hx
  have hval := digitsValue_addDigits x.digits y.digits 0 (by omega) hxd.1 hy.1
  refine ⟨?_, Decimal.normalised_of_digits (addDigits_normal hxd hy) fun h0 => Decimal.sign_of_value_zero hx (by omega)⟩
  rw [decAddSame, Decimal.value_eq, hval, Decimal.value_eq x, Decimal.value_eq y, ← hs]
  push_cast
  ring

/-- The smaller vector of digits taken from the larger. -/
theorem unpad_subDigits {xs ys : List Nat} (hx : NormalDigits xs) (hy : NormalDigits ys)
    (hlt : digitsValue ys < digitsValue xs) :
    NormalDigits (unpad (subDigits xs ys 0)) ∧
      digitsValue (unpad (subDigits xs ys 0)) + digitsValue ys = digitsValue xs := by
  obtain ⟨hx9, hxne, -⟩ := hx
  obtain ⟨hy9, -⟩ := hy
  refine ⟨unpad_normal (subDigits_le_nine xs ys 0) (subDigits_ne_nil hxne ys 0), ?_⟩
  rw [digitsValue_unpad]
  exact digitsValue_subDigits xs ys 0 (by omega) hx9 hy9 hlt.le

/-- The subtraction of one sign, by which magnitude is the larger (R172). -/
theorem decSubSame_represents {x y : Decimal} (hs : x.sign = y.sign) (hx : NormalDigits x.digits)
    (hy : NormalDigits y.digits) : (decSubSame x y).Represents (x.value - y.value) := by
  unfold decSubSame
  split
  · next heq =>
    refine ⟨?_, rfl⟩
    rw [Decimal.value_eq x, Decimal.value_eq y, hs, heq, sub_self]
    rfl
  · next hne =>
    split
    · next hlt =>
      obtain ⟨hnorm, hval⟩ := unpad_subDigits hx hy hlt
      refine ⟨?_, Decimal.normalised_of_digits hnorm fun h0 => by omega⟩
      rw [Decimal.value_eq, Decimal.value_eq x, Decimal.value_eq y, ← hs, ← hval]
      cases x.sign <;> simp
    · next hge =>
      obtain ⟨hnorm, hval⟩ := unpad_subDigits hy hx (by omega)
      refine ⟨?_, Decimal.normalised_of_digits hnorm fun h0 => by omega⟩
      rw [Decimal.value_eq, Decimal.value_eq x, Decimal.value_eq y, ← hs, ← hval]
      cases x.sign <;> simp

/-- Operands of different signs have one sign after the flip. -/
theorem Decimal.sign_eq_flip {x y : Decimal} (h : ¬x.sign = y.sign) : x.sign = y.flip.sign := Bool.eq_not_of_ne h

theorem decAdd_represents {x y : Decimal} (hx : x.normalised = true) (hy : y.normalised = true) :
    (decAdd x y).Represents (x.value + y.value) := by
  obtain ⟨hxd, -⟩ := (Decimal.normalised_iff x).1 hx
  obtain ⟨hyd, -⟩ := (Decimal.normalised_iff y).1 hy
  unfold decAdd
  split
  · next hs => exact decAddSame_represents hs hx hyd
  · next hs =>
    have hsub := decSubSame_represents (y := y.flip) (Decimal.sign_eq_flip hs) hxd hyd
    rwa [Decimal.value_flip, sub_neg_eq_add] at hsub

theorem decSub_represents {x y : Decimal} (hx : x.normalised = true) (hy : y.normalised = true) :
    (decSub x y).Represents (x.value - y.value) := by
  obtain ⟨hxd, -⟩ := (Decimal.normalised_iff x).1 hx
  obtain ⟨hyd, -⟩ := (Decimal.normalised_iff y).1 hy
  unfold decSub
  split
  · next hs => exact decSubSame_represents hs hxd hyd
  · next hs =>
    have hadd := decAddSame_represents (y := y.flip) (Decimal.sign_eq_flip hs) hx hyd
    rwa [Decimal.value_flip, ← sub_eq_add_neg] at hadd

theorem decMul_represents {x y : Decimal} (hx : x.normalised = true) (hy : y.normalised = true) :
    (decMul x y).Represents (x.value * y.value) := by
  obtain ⟨hxd, -⟩ := (Decimal.normalised_iff x).1 hx
  obtain ⟨hyd, -⟩ := (Decimal.normalised_iff y).1 hy
  have hnorm := unpad_normal (mulDigits_le_nine x.digits y.digits) (mulDigits_ne_nil x.digits y.digits)
  have hval : digitsValue (unpad (mulDigits x.digits y.digits)) = digitsValue x.digits * digitsValue y.digits := by
    rw [digitsValue_unpad, digitsValue_mulDigits _ _ hxd.1 hyd.1]
  refine ⟨?_, Decimal.normalised_of_digits hnorm fun h0 => by simp [hnorm.eq_zero_of_value h0]⟩
  rw [decMul, Decimal.value_eq, hval, Decimal.value_eq x, Decimal.value_eq y]
  by_cases hz : unpad (mulDigits x.digits y.digits) = [0]
  · rw [hz] at hval
    rcases mul_eq_zero.1 hval.symm with h0 | h0 <;> simp [h0]
  · have hbne : (unpad (mulDigits x.digits y.digits) != [0]) = true := bne_iff_ne.2 hz
    rw [hbne, Bool.and_true]
    cases x.sign <;> cases y.sign <;> simp

/-- Settles O40. -/
theorem decimalArithmeticIsExactAndNormalised : Obligations.DecimalArithmeticIsExactAndNormalised := by
  refine ⟨fun x y hx hy => ⟨decAdd_represents hx hy, decSub_represents hx hy, decMul_represents hx hy⟩, fun ds hne =>
    ⟨digitsValue_unpad ds, unpad_length_le ds, unpad_ne_nil hne, ?_⟩⟩
  rcases unpad_noHighZero ds with h0 | hz
  · exact .inl (by rw [h0]; rfl)
  · exact .inr hz

end Sys2Proof.Machine

/-! ### Texts without a cell of value 0

No character that `TOSTR` or `TOBIN` writes is the unlisted value, and such a text reads back from every character buffer. -/

namespace Sys2Proof.Machine

/-- A written cell that is not the unlisted value reads back, whatever the form of the memory. -/
theorem memRead_memWrite_self_of_ne {w : Nat} (m : Memory w) (a : Nat) {v : BitVec w} (hv : v ≠ unlistedCell w) :
    memRead (memWrite m a v) a = v := by
  induction m with
  | nil => simp [memWrite, memRead, hv]
  | cons head m ih =>
    obtain ⟨b, u⟩ := head
    rw [memWrite]
    split
    · simp [memRead]
    · split
      · simp [memRead]
      · next hne => rwa [memRead, if_neg hne]

theorem memReadList_memWriteList_of_ne {w : Nat} (vs : List (BitVec w)) (m : Memory w) (a : Nat)
    (h : ∀ v ∈ vs, v ≠ unlistedCell w) : memReadList (memWriteList m a vs) a vs.length = vs := by
  induction vs generalizing m a with
  | nil => rfl
  | cons v vs ih =>
    obtain ⟨hv, hvs⟩ := List.forall_mem_cons.1 h
    rw [memWriteList, List.length_cons, memReadList, ih _ _ hvs, memRead_memWriteList_of_outside _ _ _ _ (by omega),
      memRead_memWrite_self_of_ne m a hv]

/-- A stored text without a character of value 0 is the text. -/
theorem State.text_storeText_of_ne {s t : State} {text : List Byte} (hne : ∀ c ∈ text, c ≠ unlistedCell 8)
    (h : s.storeText text = some t) : t.text = some text := by
  obtain ⟨hl, rfl⟩ := (s.storeText_eq_some t text).1 h
  exact (State.text_eq_some _ _).2 ⟨hl, memReadList_memWriteList_of_ne text s.cb 0 hne⟩

end Sys2Proof.Machine

/-! ### `B2D` (R175, R176) -/

namespace Sys2Proof.Machine

theorem toNat_abs_eq_natAbs_toInt {n : Nat} (v : BitVec n) : v.abs.toNat = v.toInt.natAbs := by
  have hlt := v.isLt
  rw [BitVec.toNat_abs, BitVec.toInt_eq_msb_cond]
  split <;> omega

/-- The digits of `b2d(v)` have the value of the magnitude. -/
theorem digitsValue_b2d {n : Nat} (v : BitVec n) : digitsValue (b2d v).digits = v.toInt.natAbs := by
  obtain ⟨-, hval⟩ := b2d_digits v
  exact hval.trans (toNat_abs_eq_natAbs_toInt v)

/-- `b2d(v)` has the signed value of `v` (R175). -/
theorem b2d_value {n : Nat} (v : BitVec n) : (b2d v).value = v.toInt := by
  rw [Decimal.value, digitsValue_b2d]
  exact (toInt_eq_signed_natAbs v).symm

/-- `N` digits are enough for every `N`-bit value (R36). -/
theorem b2d_length_le {n : Nat} (hn : 1 ≤ n) (v : BitVec n) : (b2d v).digits.length ≤ n := by
  obtain ⟨k, rfl⟩ := Nat.exists_eq_add_of_le' hn
  refine (b2d_digits v).1.length_le ?_
  have hmag := two_mul_abs_toInt_le v
  rw [digitsValue_b2d]
  rw [pow_succ'] at hmag
  zify
  omega

/-- The Decimal of a register fits `DM`. -/
theorem State.exists_storeDecimal_b2d (s : State) (v : BitVec s.cfg.n) (hn : 1 ≤ s.cfg.n) :
    ∃ t, s.storeDecimal (b2d v) = some t :=
  ⟨_, (s.storeDigits_eq_some _ _ _).2 ⟨by simpa [Decimal.cells] using b2d_length_le hn v, rfl⟩⟩

/-- A stored Decimal sets `DLEN` to its number of digits, which fits `DM`, and `DSIGN` to its sign flag (R176). -/
theorem State.dlen_dsign_storeDecimal {s t : State} {d : Decimal} (h : s.storeDecimal d = some t) :
    t.dlen = d.digits.length ∧ t.dsign = d.sign ∧ t.dlen ≤ s.cfg.n := by
  obtain ⟨hl, rfl⟩ := (s.storeDigits_eq_some t d.sign d.cells).1 h
  exact ⟨List.length_map _, rfl, hl⟩

/-- The Decimal that `B2D` and `TOSTR` leave has the register's signed value and is normalised. -/
theorem State.decimal_storeDecimal_b2d {s t : State} {v : BitVec s.cfg.n} (hw : Memory.wf s.dm = true)
    (h : s.storeDecimal (b2d v) = some t) : t.decimal.Represents v.toInt := by
  obtain ⟨⟨hnine, -⟩, -⟩ := b2d_digits v
  rw [State.decimal_storeDecimal hw hnine h]
  exact ⟨b2d_value v, b2d_normalised v⟩

theorem OnlyDecimal.complete {s t : State} (h : OnlyDecimal s t) (dout : Native) : OnlyDecimal s (t.complete dout) :=
  { h with ports := h.ports.complete dout }

/-- Settles O41. -/
theorem binaryToDecimalIsExact : Obligations.BinaryToDecimalIsExact := by
  intro a s
  refine ⟨decodeOfEncodeIsTheCommand (.b2d a) rfl, fun hn hw => ?_⟩
  obtain ⟨t, ht⟩ := s.exists_storeDecimal_b2d (s.xreg a) hn
  obtain ⟨hvalue, hnorm⟩ := State.decimal_storeDecimal_b2d hw ht
  obtain ⟨-, -, hlen⟩ := State.dlen_dsign_storeDecimal ht
  exact ⟨t.complete 0#64, (orStop_eq_next _ _ _ _).2 ⟨t, ht, rfl⟩, rfl, hvalue, hnorm, hlen,
    (s.storeDigits_onlyDecimal t _ _ ht).complete _⟩

end Sys2Proof.Machine

/-! ### `TOSTR` (R177) -/

namespace Sys2Proof.Machine

theorem toNat_digitChar {d : Nat} (h : d ≤ 9) : (digitChar d).toNat = 0x30 + d := by
  interval_cases d <;> rfl

/-- The character of a digit is the one that Lean's own numerals use. -/
theorem digitChar_eq_natDigitChar {d : Nat} (h : d ≤ 9) : digitChar d = BitVec.ofNat 8 (Nat.digitChar d).toNat := by
  interval_cases d <;> rfl

/-- Digits of R170, most significant first, are the shortest numeral of their value. -/
theorem toDigits_digitsValue {ds : List Nat} (h : NormalDigits ds) :
    Nat.toDigits 10 (digitsValue ds) = ds.reverse.map Nat.digitChar := by
  obtain ⟨hnine, hne, hz⟩ := h
  induction ds with
  | nil => exact absurd rfl hne
  | cons d ds ih =>
    obtain ⟨hd, hds⟩ := List.forall_mem_cons.1 hnine
    cases ds with
    | nil => exact Nat.toDigits_of_lt_base (by simp only [digitsValue]; omega)
    | cons e ds =>
      have hz' : NoHighZero (e :: ds) := ((noHighZero_cons d _).1 (hz.resolve_left (by simp))).1
      have hpos : 0 < digitsValue (e :: ds) := (Nat.pow_pos (by decide)).trans_le (ten_pow_le_digitsValue hz')
      have hlow : Nat.toDigits 10 d = [Nat.digitChar d] := Nat.toDigits_of_lt_base (by omega)
      rw [digitsValue, Nat.add_comm, ← Nat.toDigits_append_toDigits (by decide) hpos (by omega),
        ih hds (List.cons_ne_nil _ _) (.inr hz'), hlow, List.reverse_cons (as := e :: ds),
        List.map_append, List.map_singleton]

/-- The text of `b2d(v)` is the shortest decimal numeral of the signed value of `v` (R177). -/
theorem text_b2d {n : Nat} (v : BitVec n) : (b2d v).text = decimalNumeral v.toInt := by
  obtain ⟨hnorm, -⟩ := b2d_digits v
  have hsign : (b2d v).sign = decide (v.toInt < 0) := BitVec.msb_eq_toInt
  have hchars : (b2d v).digits.reverse.map digitChar =
      ((b2d v).digits.reverse.map Nat.digitChar).map fun ch => BitVec.ofNat 8 ch.toNat := by
    rw [List.map_map]
    exact List.map_congr_left fun d hd => digitChar_eq_natDigitChar (hnorm.1 d (List.mem_reverse.1 hd))
  rw [Decimal.text, decimalNumeral, hsign, hchars, ← toDigits_digitsValue hnorm, digitsValue_b2d]
  simp only [decide_eq_true_eq]
  rfl

theorem Decimal.length_text (d : Decimal) : d.text.length = d.digits.length + d.sign.toNat := by
  rw [Decimal.text]
  cases d.sign <;> simp

/-- No character of a Decimal's text is the unlisted value. -/
theorem text_ne_unlisted {d : Decimal} (h : ∀ k ∈ d.digits, k ≤ 9) : ∀ c ∈ d.text, c ≠ unlistedCell 8 := by
  have hminus : charMinus ≠ unlistedCell 8 := by decide
  intro c hc
  rcases List.mem_append.1 hc with hc | hc
  · have hcm : c = charMinus := by
      revert hc
      cases d.sign <;> simp
    rwa [hcm]
  · obtain ⟨k, hk, rfl⟩ := List.mem_map.1 hc
    intro h0
    have hval := (toNat_digitChar (h k (List.mem_reverse.1 hk))).symm.trans (congrArg BitVec.toNat h0)
    simp [unlistedCell] at hval

/-- What `TOSTR` does in a configuration in range, where its Decimal and its text fit (R36, R177). -/
theorem exists_exec_tostr (a : XReg) {s : State} (hc : s.cfg.InRange) :
    ∃ t u, s.storeDecimal (b2d (s.xreg a)) = some t ∧ t.storeText (b2d (s.xreg a)).text = some u ∧
      exec (.tostr a) s = .next (u.complete 0#64) := by
  obtain ⟨hn, -, -, -, -, -, hcb⟩ := hc
  obtain ⟨t, ht⟩ := s.exists_storeDecimal_b2d (s.xreg a) hn
  have hfits : (b2d (s.xreg a)).text.length ≤ t.cfg.cbSize := by
    have hlen := b2d_length_le hn (s.xreg a)
    have hsign := Bool.toNat_le (b2d (s.xreg a)).sign
    rw [Decimal.length_text, (s.storeDigits_onlyDecimal t _ _ ht).ports.cfg]
    omega
  have hu := (t.storeText_eq_some _ _).2 ⟨hfits, rfl⟩
  exact ⟨t, _, ht, hu, (orStop_eq_next _ _ _ _).2 ⟨t, ht, (orStop_eq_next _ _ _ _).2 ⟨_, hu, rfl⟩⟩⟩

/-- A Decimal and then a text stored change only the cells below the new lengths. -/
theorem storeDecimal_storeText_only {s t u : State} {d : Decimal} {text : List Byte} (ht : s.storeDecimal d = some t)
    (hu : t.storeText text = some u) : OnlyTextAndDecimal s u := by
  obtain ⟨hports, hxs, hfs, hfsr⟩ := storeDecimal_storeText_frame ht hu
  obtain ⟨-, -, -, ⟨-, hcb⟩, hdigits, -⟩ := s.storeDigits_onlyDecimal t _ _ ht
  obtain ⟨-, -, -, hchars, ⟨hdlen, -, hdm⟩, -⟩ := t.storeText_onlyText u _ hu
  exact { ports := hports, xs := hxs, fs := hfs, fsr := hfsr
          chars := fun i hi => (hchars i (Nat.not_lt.2 hi)).trans (hcb i)
          digits := fun k hk => (hdm k).trans (hdigits k (hdlen ▸ hk)) }

theorem OnlyTextAndDecimal.complete {s t : State} (h : OnlyTextAndDecimal s t) (dout : Native) :
    OnlyTextAndDecimal s (t.complete dout) :=
  { h with ports := h.ports.complete dout }

/-- A stored text sets `CLEN` to its length and keeps the Decimal (R35). -/
theorem State.clen_decimal_storeText {s t : State} {text : List Byte} (h : s.storeText text = some t) :
    t.clen = text.length ∧ t.dlen = s.dlen ∧ t.dsign = s.dsign ∧ t.decimal = s.decimal := by
  obtain ⟨-, rfl⟩ := (s.storeText_eq_some t text).1 h
  exact ⟨rfl, rfl, rfl, rfl⟩

/-- Settles O42. -/
theorem toStringWritesTheShortestNumeral : Obligations.ToStringWritesTheShortestNumeral := by
  intro a s
  refine ⟨decodeOfEncodeIsTheCommand (.tostr a) rfl, fun hc hw => ?_⟩
  obtain ⟨t, u, ht, hu, hexec⟩ := exists_exec_tostr a hc
  obtain ⟨⟨hnine, -⟩, -⟩ := b2d_digits (s.xreg a)
  obtain ⟨hvalue, hnorm⟩ := State.decimal_storeDecimal_b2d hw ht
  obtain ⟨hdlen, hdsign, -⟩ := State.dlen_dsign_storeDecimal ht
  obtain ⟨hclen, hdlen', hdsign', hdecimal⟩ := State.clen_decimal_storeText hu
  have htext : u.text = some (decimalNumeral (s.xreg a).toInt) :=
    (State.text_storeText_of_ne (text_ne_unlisted hnine) hu).trans (congrArg some (text_b2d _))
  have hlength : u.clen = u.dlen + u.dsign.toNat := by
    rw [hclen, hdlen', hdsign', hdlen, hdsign, Decimal.length_text]
  exact ⟨u.complete 0#64, hexec, rfl, htext, hlength, (congrArg Decimal.value hdecimal).trans hvalue,
    (congrArg Decimal.normalised hdecimal).trans hnorm, (storeDecimal_storeText_only ht hu).complete _⟩

end Sys2Proof.Machine

/-! ### `TOBIN` (R178) -/

namespace Sys2Proof.Machine

theorem length_bitCharsBelow {n : Nat} (v : BitVec n) (k : Nat) : (bitCharsBelow v k).length = k := by
  induction k with
  | zero => rfl
  | succ k ih => rw [bitCharsBelow, List.length_cons, ih]

/-- The characters run from the highest bit down. -/
theorem getElem?_bitCharsBelow {n : Nat} (v : BitVec n) {k j : Nat} (h : j < k) :
    (bitCharsBelow v k)[j]? = some (if v.getLsbD (k - 1 - j) then 0x31#8 else 0x30#8) := by
  induction k generalizing j with
  | zero => omega
  | succ k ih =>
    cases j with
    | zero => rfl
    | succ j =>
      rw [bitCharsBelow, List.getElem?_cons_succ, ih (by omega), show k + 1 - 1 - (j + 1) = k - 1 - j by omega]

theorem bitCharsBelow_ne_unlisted {n : Nat} (v : BitVec n) (k : Nat) : ∀ c ∈ bitCharsBelow v k, c ≠ unlistedCell 8 := by
  induction k with
  | zero => simp [bitCharsBelow]
  | succ k ih =>
    refine List.forall_mem_cons.2 ⟨?_, ih⟩
    cases v.getLsbD k <;> decide

/-- Read as a binary numeral after `acc`, the characters of the low `k` bits are those bits. -/
theorem foldl_bitCharsBelow {n : Nat} (v : BitVec n) (k acc : Nat) :
    (bitCharsBelow v k).foldl (fun v c => 2 * v + (c.toNat - 0x30)) acc = acc * 2 ^ k + v.toNat % 2 ^ k := by
  induction k generalizing acc with
  | zero => simp [bitCharsBelow, Nat.mod_one]
  | succ k ih =>
    have hbit : (if v.getLsbD k then 0x31#8 else 0x30#8).toNat - 0x30 = (v.toNat.testBit k).toNat := by
      rw [BitVec.testBit_toNat]
      cases v.getLsbD k <;> rfl
    rw [bitCharsBelow, List.foldl_cons, ih, hbit, mod_two_pow_succ_eq]
    ring

/-- A character of the text is the cell of `CB` at its index (R35). -/
theorem State.memRead_of_text {s : State} {text : List Byte} (h : s.text = some text) {j : Nat} {c : Byte}
    (hj : text[j]? = some c) : memRead (w := 8) s.cb j = c := by
  obtain ⟨-, rfl⟩ := (s.text_eq_some text).1 h
  obtain ⟨hlt, hc⟩ := List.getElem?_eq_some_iff.1 hj
  rw [memReadList_getElem _ _ _ _ (by simpa using hlt), Nat.zero_add] at hc
  exact hc

theorem OnlyText.complete {addr : Nat → Prop} {s t : State} (h : OnlyText addr s t) (dout : Native) :
    OnlyText addr s (t.complete dout) :=
  { h with ports := h.ports.complete dout }

/-- Settles O43. -/
theorem toBinaryWritesEveryBit : Obligations.ToBinaryWritesEveryBit := by
  intro a s
  refine ⟨decodeOfEncodeIsTheCommand (.tobin a) rfl, fun hfits => ?_⟩
  have hlen : (binaryText (s.xreg a)).length = s.cfg.n := length_bitCharsBelow _ _
  obtain ⟨t, ht⟩ : ∃ t, s.storeText (binaryText (s.xreg a)) = some t :=
    ⟨_, (s.storeText_eq_some _ _).2 ⟨hlen.trans_le hfits, rfl⟩⟩
  have htext := State.text_storeText_of_ne (bitCharsBelow_ne_unlisted _ _) ht
  have hnumeral := foldl_bitCharsBelow (s.xreg a) s.cfg.n 0
  rw [Nat.zero_mul, Nat.zero_add, Nat.mod_eq_of_lt (s.xreg a).isLt] at hnumeral
  exact ⟨t.complete 0#64, _, (orStop_eq_next _ _ _ _).2 ⟨t, ht, rfl⟩, rfl,
    (State.clen_decimal_storeText ht).1.trans hlen, htext, hlen,
    fun j hj => State.memRead_of_text htext (getElem?_bitCharsBelow _ hj), hnumeral,
    (s.storeText_onlyText t _ ht).complete _⟩

end Sys2Proof.Machine

/-! ### The grammar of a numeral (R181) -/

namespace Sys2Proof.Machine

/-- `matchHex` recognises HEX. -/
theorem matchHex_eq_some (text body : List Byte) : matchHex text = some body ↔ IsHexText text body := by
  match text with
  | [] | [_] => simp [matchHex, IsHexText]
  | z :: x :: rest =>
    rw [matchHex, Option.ite_none_right_eq_some]
    simp only [IsHexText, charZero, charLowerX, charUpperX, List.all_eq_true, List.cons.injEq, Option.some.injEq]
    constructor
    · rintro ⟨⟨rfl, hx, hne, hall⟩, rfl⟩
      exact ⟨by simpa using hx, hne, hall⟩
    · rintro ⟨⟨rfl, rfl, rfl⟩ | ⟨rfl, rfl, rfl⟩, hne, hall⟩
      · exact ⟨⟨rfl, .inl rfl, hne, hall⟩, rfl⟩
      · exact ⟨⟨rfl, .inr rfl, hne, hall⟩, rfl⟩

theorem matchDigits_eq_some (text body : List Byte) : matchDigits text = some body ↔ IsDecText false text body := by
  rw [matchDigits, Option.ite_none_right_eq_some]
  simp only [IsDecText, List.all_eq_true, Option.some.injEq, Bool.false_eq_true, if_false, List.nil_append]
  constructor
  · rintro ⟨⟨hne, hall⟩, rfl⟩; exact ⟨rfl, hne, hall⟩
  · rintro ⟨rfl, hne, hall⟩; exact ⟨⟨hne, hall⟩, rfl⟩

/-- After a minus, DEC asks for a run of digits. -/
theorem isDecText_minus_cons (minus : Bool) (rest body : List Byte) :
    IsDecText minus (charMinus :: rest) body ↔ minus = true ∧ IsDecText false rest body := by
  cases minus with
  | true => simp [IsDecText, charMinus]
  | false =>
    have hminus : ¬isDecChar charMinus = true := by decide
    refine iff_of_false ?_ (by simp)
    rintro ⟨he, -, hall⟩
    obtain rfl : charMinus :: rest = body := he
    exact hminus (hall charMinus List.mem_cons_self)

theorem not_isDecText_true_cons {c : Byte} (hc : c ≠ charMinus) (rest body : List Byte) :
    ¬IsDecText true (c :: rest) body := by
  rintro ⟨he, -⟩
  exact hc (List.cons.inj he).1

/-- `matchDec` recognises DEC, with the minus where there is one. -/
theorem matchDec_eq_some (minus : Bool) (text body : List Byte) :
    matchDec text = some (minus, body) ↔ IsDecText minus text body := by
  cases text with
  | nil =>
    refine iff_of_false (by simp [matchDec]) ?_
    rintro ⟨he, hne, -⟩
    exact hne (List.append_eq_nil_iff.1 he.symm).2
  | cons c rest =>
    rw [matchDec]
    split
    · next hc =>
      rw [hc, isDecText_minus_cons, ← matchDigits_eq_some, Option.map_eq_some_iff]
      constructor
      · rintro ⟨_, hbody, ⟨⟩⟩; exact ⟨rfl, hbody⟩
      · rintro ⟨rfl, hbody⟩; exact ⟨body, hbody, rfl⟩
    · next hc =>
      cases minus with
      | true => simp [not_isDecText_true_cons hc]
      | false => simp [← matchDigits_eq_some]

theorem IsDecText.minus_or_digit {minus : Bool} {text body : List Byte} (h : IsDecText minus text body) :
    ∀ c ∈ text, c = charMinus ∨ isDecChar c = true := by
  obtain ⟨rfl, -, hall⟩ := h
  intro c hc
  rcases List.mem_append.1 hc with hc | hc
  · cases minus with
    | true => exact .inl (List.mem_singleton.1 hc)
    | false => exact absurd hc List.not_mem_nil
  · exact .inr (hall c hc)

/-- No text is both HEX and DEC: the `x` is no character of DEC. -/
theorem IsDecText.matchHex_eq_none {minus : Bool} {text body : List Byte} (h : IsDecText minus text body) :
    matchHex text = none := by
  refine Option.eq_none_iff_forall_ne_some.2 fun hexBody hsome => ?_
  obtain ⟨rfl | rfl, -, -⟩ := (matchHex_eq_some text hexBody).1 hsome
  · exact absurd (h.minus_or_digit 0x78#8 (by simp)) (by decide)
  · exact absurd (h.minus_or_digit 0x58#8 (by simp)) (by decide)

/-! ### The value of a numeral (R182, R184) -/

/-- A hexadecimal digit is a value of four bits (R184). -/
theorem nibble_lt {c : Byte} (h : isHexChar c = true) (hc : c ≠ charApostrophe) : nibble c < 2 ^ 4 := by
  simp only [isHexChar, isDecChar, isLowerHex, isUpperHex, Bool.or_eq_true, Bool.and_eq_true, decide_eq_true_eq, beq_iff_eq,
    hc, or_false] at h
  simp only [nibble, isDecChar, isLowerHex, Bool.and_eq_true, decide_eq_true_eq]
  split
  · omega
  · split <;> omega

/-- A hexadecimal digit shifted in (R184). -/
theorem shiftLeft_or_nibble (n k : Nat) {d : Nat} (hd : d < 2 ^ 4) :
    (BitVec.ofNat n k <<< 4) ||| BitVec.ofNat n d = BitVec.ofNat n (16 * k + d) := by
  have hor : 16 * k + d = k <<< 4 ||| d := by
    rw [← Nat.shiftLeft_add_eq_or_of_lt hd, Nat.shiftLeft_eq, Nat.mul_comm]
  refine BitVec.eq_of_toNat_eq ?_
  rw [hor, BitVec.toNat_or, BitVec.toNat_shiftLeft, BitVec.toNat_ofNat, BitVec.toNat_ofNat, BitVec.toNat_ofNat,
    Nat.or_mod_two_pow, Nat.shiftLeft_eq, Nat.shiftLeft_eq, Nat.mod_mul_mod]

/-- The loop of R184 computes the numeral modulo `2^n`. -/
theorem hexLoop_eq (n : Nat) (body : List Byte) (k : Nat) (h : ∀ c ∈ body, isHexChar c = true) :
    hexLoop body (BitVec.ofNat n k) =
      BitVec.ofNat n (body.foldl (fun v c => if c = charApostrophe then v else 16 * v + nibble c) k) := by
  induction body generalizing k with
  | nil => rfl
  | cons c body ih =>
    obtain ⟨hc, hbody⟩ := List.forall_mem_cons.1 h
    rw [hexLoop, List.foldl_cons, ← ih _ hbody]
    congr 1
    split
    · rfl
    · next hap => exact shiftLeft_or_nibble n k (nibble_lt hc hap)

theorem hexValue_eq (n : Nat) {body : List Byte} (h : ∀ c ∈ body, isHexChar c = true) :
    hexValue n body = BitVec.ofNat n (hexNumeral body) := hexLoop_eq n body 0 h

theorem decNumeral_append (body : List Byte) (c : Byte) :
    decNumeral (body ++ [c]) = 10 * decNumeral body + (c.toNat - 0x30) := by
  simp [decNumeral]

/-- The loop of R182, from the last character on, adds the rest of the numeral at the scale reached. -/
theorem decLoop_eq {n : Nat} (cs : List Byte) (value scale : BitVec n) :
    decLoop cs value scale = value + scale * BitVec.ofNat n (decNumeral cs.reverse) := by
  induction cs generalizing value scale with
  | nil => simp [decLoop, decNumeral]
  | cons c cs ih =>
    rw [decLoop, ih, List.reverse_cons, decNumeral_append, BitVec.ofNat_add, BitVec.ofNat_mul, addWord]
    ring

theorem decValue_eq (n : Nat) (body : List Byte) : decValue n body = BitVec.ofNat n (decNumeral body) := by
  rw [decValue, decLoop_eq, List.reverse_reverse, BitVec.zero_add, BitVec.one_mul]

/-! ### `PARSE` (R180, R187) -/

theorem parseText_of_isHexText (n : Nat) {text body : List Byte} (h : IsHexText text body) :
    parseText n text = some (BitVec.ofNat n (hexNumeral body)) := by
  have hmatch := (matchHex_eq_some text body).2 h
  obtain ⟨-, -, hall⟩ := h
  simp only [parseText, hmatch, hexValue_eq n hall]

theorem parseText_of_isDecText (n : Nat) {minus : Bool} {text body : List Byte} (h : IsDecText minus text body) :
    parseText n text = some (BitVec.ofInt n (if minus then -(decNumeral body : Int) else decNumeral body)) := by
  have hmatch := (matchDec_eq_some minus text body).2 h
  simp only [parseText, h.matchHex_eq_none, hmatch, decValue_eq, twosComplement_eq_neg]
  cases minus with
  | true => simp [BitVec.ofInt_neg]
  | false => simp

theorem parseText_eq_none (n : Nat) {text : List Byte} (hhex : ∀ body, ¬IsHexText text body)
    (hdec : ∀ minus body, ¬IsDecText minus text body) : parseText n text = none := by
  have hmatchHex : matchHex text = none :=
    Option.eq_none_iff_forall_ne_some.2 fun body h => hhex body ((matchHex_eq_some text body).1 h)
  have hmatchDec : matchDec text = none :=
    Option.eq_none_iff_forall_ne_some.2 fun ⟨minus, body⟩ h => hdec minus body ((matchDec_eq_some minus text body).1 h)
  simp only [parseText, hmatchHex, hmatchDec]

/-- `PARSE` of a text with a value (R180). -/
theorem exec_parse_of_some (a : XReg) {s : State} {text : List Byte} {v : BitVec s.cfg.n} (ht : s.text = some text)
    (hv : parseText s.cfg.n text = some v) : exec (.parse a) s = .next ((s.setX a v).complete 1#64) := by
  simp only [exec, execParse, ht, orStop_some, hv]

/-- `PARSE` of a text without one (R187). -/
theorem exec_parse_of_none (a : XReg) {s : State} {text : List Byte} (ht : s.text = some text)
    (hv : parseText s.cfg.n text = none) :
    exec (.parse a) s = .next ((s.setX a (0#s.cfg.n)).setPf.complete 0#64) := by
  simp only [exec, execParse, ht, orStop_some, hv]

/-- Settles O44. -/
theorem parseReadsHexadecimalText : Obligations.ParseReadsHexadecimalText := by
  intro a s text body ht hhex
  refine ⟨_, exec_parse_of_some a ht (parseText_of_isHexText _ hhex), rfl, ?_, s.setX_complete_onlyX a _ _⟩
  rw [State.complete_xpat, State.setX_xpat_self, BitVec.toNat_ofNat]

/-- Settles O45. -/
theorem parseReadsDecimalText : Obligations.ParseReadsDecimalText := by
  intro a s minus text body ht hdec
  refine ⟨_, exec_parse_of_some a ht (parseText_of_isDecText _ hdec), rfl, ?_, s.setX_complete_onlyX a _ _⟩
  rw [State.complete_xpat, State.setX_xpat_self, toNat_ofInt_emod]

/-- Settles O46: the state answered is the old one but for the register, `pf` and the response. -/
theorem parseFailureIsNotAFault : Obligations.ParseFailureIsNotAFault := by
  intro a s text ht hhex hdec
  refine ⟨decodeOfEncodeIsTheCommand (.parse a) rfl, _, exec_parse_of_none a ht (parseText_eq_none _ hhex hdec), rfl, ?_,
    pf_withPf _, fun k hk => ?_, fcode_withPf _, ⟨rfl, rfl, rfl⟩, s.setX_keepsX a _ _ List.mem_cons_self, KeepsF.refl _ _,
    KeepsText.refl _, KeepsDecimal.refl _⟩
  · exact (s.setX_xpat_self a _).trans BitVec.toNat_zero
  · exact (getLsbD_withPf s.fsr k).trans (by simp [hk])

/-! ### `TOSTR` and then `PARSE` (R188) -/

/-- A character of a digit is a digit character of that value. -/
theorem isDecChar_digitChar {d : Nat} (h : d ≤ 9) : isDecChar (digitChar d) = true := by
  interval_cases d <;> rfl

/-- The numeral that `TOSTR` writes has the value of its digits. -/
theorem decNumeral_digitChars {ds : List Nat} (h : ∀ d ∈ ds, d ≤ 9) :
    decNumeral (ds.reverse.map digitChar) = digitsValue ds := by
  induction ds with
  | nil => rfl
  | cons d ds ih =>
    obtain ⟨hd, hds⟩ := List.forall_mem_cons.1 h
    rw [List.reverse_cons, List.map_append, List.map_singleton, decNumeral_append, ih hds, toNat_digitChar hd, digitsValue]
    omega

/-- A normalised Decimal's text is DEC, with a minus where the sign flag is set. -/
theorem isDecText_text {d : Decimal} (h : NormalDigits d.digits) :
    IsDecText d.sign d.text (d.digits.reverse.map digitChar) := by
  obtain ⟨hnine, hne, -⟩ := h
  refine ⟨rfl, by simpa using hne, fun c hc => ?_⟩
  obtain ⟨k, hk, rfl⟩ := List.mem_map.1 hc
  exact isDecChar_digitChar (hnine k (List.mem_reverse.1 hk))

/-- The text of a Decimal of R170 parses to its value (R188). -/
theorem parseText_text (n : Nat) {d : Decimal} (h : NormalDigits d.digits) :
    parseText n d.text = some (BitVec.ofInt n d.value) := by
  rw [parseText_of_isDecText n (isDecText_text h), decNumeral_digitChars h.1]
  rfl

/-- Settles O47: the text of `b2d(v)` parses to the signed value of `v`. -/
theorem parseOfToStringIsTheValue : Obligations.ParseOfToStringIsTheValue := by
  intro a b s hc
  obtain ⟨t, u, ht, hu, hexec⟩ := exists_exec_tostr a hc
  obtain ⟨hnorm, -⟩ := b2d_digits (s.xreg a)
  have htext := State.text_storeText_of_ne (text_ne_unlisted hnorm.1) hu
  have hcfg : u.cfg = s.cfg := (storeDecimal_storeText_only ht hu).ports.cfg
  refine ⟨_, _, hexec, exec_parse_of_some b htext (parseText_text _ hnorm), rfl, ?_⟩
  have hpat : (BitVec.ofInt u.cfg.n (b2d (s.xreg a)).value).toNat = (s.xreg a).toNat := by
    rw [b2d_value, hcfg, BitVec.ofInt_toInt]
  exact ((u.complete 0#64).setX_xpat_self b _).trans hpat

end Sys2Proof.Machine

/-! ### The buffer access commands (R190 to R194) -/

namespace Sys2Proof.Machine

theorem exec_cbput (s : State) :
    exec .cbput s = if s.clen = s.cfg.cbSize then .next (s.raise .bufferOverflow)
      else orStop (s.appendChar s.dinChar) .noSuchCharCell fun t => .next (t.complete 0#64) := rfl

theorem exec_cbget (s : State) :
    exec .cbget s = withIndex s s.clen fun i =>
      orStop (s.charAt i) .noSuchCharCell fun c => .next (s.complete (c.setWidth 64)) := rfl

theorem exec_dmget (s : State) :
    exec .dmget s = withIndex s s.dlen fun k =>
      orStop (s.digitAt k) .noSuchDigitCell fun d => .next (s.complete (d.setWidth 64)) := rfl

/-- The character of `CBPUT` is the low byte of the operand (R191). -/
theorem State.toNat_dinChar (s : State) : s.dinChar.toNat = s.din.toNat % 256 := by
  rw [State.dinChar, BitVec.extractLsb'_toNat, Nat.shiftRight_zero]

/-- Settles O48. -/
theorem bufferResetAndAppend : Obligations.BufferResetAndAppend := by
  intro s
  refine ⟨decodeOfEncodeIsTheCommand .cbrst rfl, decodeOfEncodeIsTheCommand .cbput rfl, ⟨_, rfl, rfl, rfl, ?_⟩,
    fun hroom hw => ?_, fun hfull => ⟨_, (exec_cbput s).trans (if_pos hfull), s.raise_raises _⟩⟩
  · exact ⟨⟨rfl, rfl, rfl⟩, KeepsX.refl _ _, KeepsF.refl _ _, fun _ _ => rfl, KeepsDecimal.refl _, rfl⟩
  · have ht := (s.appendChar_eq_some _ s.dinChar).2 ⟨hroom, rfl⟩
    refine ⟨_, ?_, rfl, ?_, rfl, (s.appendChar_onlyText _ _ ht).complete 0#64⟩
    · rw [exec_cbput, if_neg hroom.ne, ht, orStop_some]
    · exact (congrArg BitVec.toNat (memRead_memWrite_self s.cb s.clen s.dinChar hw)).trans s.toNat_dinChar

/-- A command that answers the `w`-bit cell of an index in range completes with the cell, zero-extended, and changes nothing
(R193, R194). -/
theorem exec_answers_cell {i : Instr} {s : State} {w : Nat} {cell : BitVec w} (hw : w ≤ 64)
    (h : exec i s = .next (s.complete (cell.setWidth 64))) :
    ∃ t d, exec i s = .next t ∧ t.rsp = completedWith d ∧ OnlyResponse s t ∧ d.toNat = cell.toNat :=
  ⟨_, _, h, rfl, s.complete_onlyResponse _, BitVec.toNat_setWidth_of_le hw⟩

/-- Settles O49: an index below the length is below the size of the memory. -/
theorem bufferReadsGiveTheCellOrFault : Obligations.BufferReadsGiveTheCellOrFault := by
  intro s hclen hdlen
  refine ⟨decodeOfEncodeIsTheCommand .cbget rfl, decodeOfEncodeIsTheCommand .dmget rfl, fun hi => ?_,
    exec_raises_indexOutOfBounds (exec_cbget s), fun hk => ?_, exec_raises_indexOutOfBounds (exec_dmget s)⟩
  · have hchar := (s.charAt_eq_some s.din.toNat _).2 ⟨hi.trans_le hclen, rfl⟩
    exact exec_answers_cell (by decide) (by rw [exec_eq_of_index_lt (exec_cbget s) hi, hchar, orStop_some])
  · have hdigit := (s.digitAt_eq_some s.din.toNat _).2 ⟨hk.trans_le hdlen, rfl⟩
    exact exec_answers_cell (by decide) (by rw [exec_eq_of_index_lt (exec_dmget s) hk, hdigit, orStop_some])

end Sys2Proof.Machine

/-! ## The bfloat commands of spec/44_bfloat.md

### The rounding primitive (R206) -/

namespace Sys2Proof.Machine

/-- Settles O50, by the rules of `rneShift`; with `sh = 0` nothing is discarded. -/
theorem roundingPrimitiveIsNearestEven : Obligations.RoundingPrimitiveIsNearestEven := by
  intro m sh
  refine ⟨rneShift_fst m sh, rneShift_snd_le_one m sh, ?_, rneShift_nearest m sh⟩
  rintro rfl
  rfl

end Sys2Proof.Machine

/-! ### The widths and constants of a configuration in range (R7, R8) -/

namespace Sys2Proof

/-- A bfloat is a sign bit, the exponent field and the fraction field. -/
theorem Config.InRange.nf_eq {c : Config} (h : c.InRange) : c.nf - 1 = c.e + c.fracBits ∧ c.nf = c.nf - 1 + 1 := by
  obtain ⟨-, -, -, -, hF, -, -⟩ := h
  unfold Config.fracBits at *
  omega

/-- The range of `F` (R7). -/
theorem Config.InRange.fracBits_bounds {c : Config} (h : c.InRange) : 2 ≤ c.fracBits ∧ c.fracBits ≤ 52 := by
  obtain ⟨-, -, -, -, hF, hF', -⟩ := h
  exact ⟨hF, hF'⟩

/-- The exponent constants of R8 are made of `2^(E-1)`. -/
theorem Config.InRange.two_pow_pred_e {c : Config} (h : c.InRange) : 2 ≤ 2 ^ (c.e - 1) ∧ 2 ^ (c.e - 1) ≤ 512 := by
  obtain ⟨-, -, he, he', -, -, -⟩ := h
  exact ⟨Nat.pow_le_pow_right (n := 2) (i := 1) two_pos (by omega),
    Nat.pow_le_pow_right (n := 2) (j := 9) two_pos (by omega)⟩

/-- There are `2^E * 2^F` bodies. -/
theorem Config.InRange.two_pow_pred_nf {c : Config} (h : c.InRange) :
    2 ^ (c.nf - 1) = 2 * 2 ^ (c.e - 1) * 2 ^ c.fracBits := by
  obtain ⟨hnf, -⟩ := h.nf_eq
  obtain ⟨-, -, he, -, -, -, -⟩ := h
  rw [hnf, Nat.pow_add, ← Nat.pow_succ', Nat.succ_eq_add_one, Nat.sub_add_cancel (by omega)]

/-- A sign bit on top of the bodies. -/
theorem Config.InRange.two_pow_nf {c : Config} (h : c.InRange) : 2 ^ c.nf = 2 * 2 ^ (c.nf - 1) := by
  rw [← Nat.pow_succ', Nat.succ_eq_add_one, ← h.nf_eq.2]

theorem Config.InRange.four_le_two_pow_fracBits {c : Config} (h : c.InRange) : 4 ≤ 2 ^ c.fracBits :=
  Nat.pow_le_pow_right (n := 2) (i := 2) two_pos h.fracBits_bounds.1

/-- The special bodies are apart from zero and from the subnormal bodies. -/
theorem Config.InRange.four_mul_le_bodies {c : Config} (h : c.InRange) : 4 * 2 ^ c.fracBits ≤ 2 ^ (c.nf - 1) := by
  rw [h.two_pow_pred_nf]
  have hhalf := h.two_pow_pred_e.1
  exact Nat.mul_le_mul_right _ (by omega)

end Sys2Proof

/-! ### Patterns, bodies and signs (R29) -/

namespace Sys2Proof.Machine

theorem signedBody_lt {c : Config} (hc : c.InRange) (sign : Bool) {b : Nat} (hb : b < 2 ^ (c.nf - 1)) :
    signedBody c sign b < 2 ^ c.nf := by
  have hsign := Nat.mul_le_mul_right (2 ^ (c.nf - 1)) (Bool.toNat_le sign)
  rw [hc.two_pow_nf, signedBody]
  omega

/-- The body and the sign of a pattern put together from them. -/
theorem signedBody_fields (c : Config) (sign : Bool) {b : Nat} (hb : b < 2 ^ (c.nf - 1)) :
    bfBody c (signedBody c sign b) = b ∧ bfSign c (signedBody c sign b) = sign := by
  constructor
  · rw [bfBody, signedBody, Nat.mul_add_mod', Nat.mod_eq_of_lt hb]
  · rw [bfSign, signedBody, Nat.testBit_eq_decide_div_mod_eq, Nat.mul_comm, Nat.mul_add_div (by positivity),
      Nat.div_eq_of_lt hb]
    cases sign <;> rfl

/-- A pattern is its sign and its body. -/
theorem signedBody_of_fields {c : Config} (hc : c.InRange) {p : Nat} (hp : p < 2 ^ c.nf) :
    signedBody c (bfSign c p) (bfBody c p) = p := by
  have hquot : p / 2 ^ (c.nf - 1) < 2 := Nat.div_lt_of_lt_mul (by rwa [Nat.mul_comm, ← hc.two_pow_nf])
  rw [signedBody, bfSign, bfBody, Nat.toNat_testBit, Nat.mod_eq_of_lt hquot, Nat.div_add_mod']

theorem bfBody_lt (c : Config) (p : Nat) : bfBody c p < 2 ^ (c.nf - 1) := Nat.mod_lt _ (by positivity)

/-- The fraction field is the low part of the body. -/
theorem bfFrac_eq {c : Config} (hc : c.InRange) (p : Nat) : bfFrac c p = bfBody c p % 2 ^ c.fracBits := by
  have hdvd : 2 ^ c.fracBits ∣ 2 ^ (c.nf - 1) := Nat.pow_dvd_pow 2 (by rw [hc.nf_eq.1]; omega)
  rw [bfFrac, bfBody, Nat.mod_mod_of_dvd p hdvd]

/-- The exponent field is zero for the bodies below `2^F`. -/
theorem bfExp_eq_zero_iff (c : Config) (p : Nat) : bfExp c p = 0 ↔ bfBody c p < 2 ^ c.fracBits := by
  rw [bfExp, Nat.div_eq_zero_iff]
  simp

/-- The class code of R226 in the order of R200's tests. -/
theorem classCode_bfClass (c : Config) (p : Nat) :
    classCode (bfClass c p) =
      if bfBody c p = 0 then 0
      else if bfBody c p = 2 ^ (c.nf - 1) - 1 then (if bfSign c p then 5 else 4)
      else if bfBody c p = 2 ^ (c.nf - 1) - 2 then 3
      else if bfBody c p < 2 ^ c.fracBits then 1
      else 2 := by
  simp only [bfClass, ← bfExp_eq_zero_iff, apply_ite classCode]
  rfl

theorem classCode_le_five (k : BfClass) : classCode k ≤ 5 := by cases k <;> decide

/-- What the classes that have one or two patterns say of body and sign (R201 to R203). -/
theorem bfClass_fields (c : Config) (p : Nat) :
    (bfClass c p = .zero → bfBody c p = 0) ∧ (bfClass c p = .infinity → bfBody c p = allOnesBody c - 1) ∧
    (bfClass c p = .quietNaN → bfBody c p = allOnesBody c ∧ bfSign c p = false) ∧
    (bfClass c p = .signallingNaN → bfBody c p = allOnesBody c ∧ bfSign c p = true) := by
  unfold bfClass
  split_ifs <;> simp_all

/-- The numeric patterns are those with a body below the infinity's (R200, R205). -/
theorem isNumeric_iff {c : Config} (hc : c.InRange) (p : Nat) :
    isNumeric c p = true ↔ bfBody c p ≤ allOnesBody c - 2 := by
  have hsmall := hc.four_mul_le_bodies
  have hF := hc.four_le_two_pow_fracBits
  have hb := bfBody_lt c p
  unfold isNumeric bfClass allOnesBody
  split_ifs <;> simp <;> omega

end Sys2Proof.Machine

/-! ### The setters, the raw access, the classes and the rejected arithmetic (R219 to R228) -/

namespace Sys2Proof.Machine

/-- A command that writes `v` to `f[a]` and completes leaves there the number that `v` stands for, and changes nothing
else but the response. -/
theorem exec_writes_bfloat {i : Instr} {a : FReg} {s : State} {v : BitVec s.cfg.nf} {p : Nat}
    (h : exec i s = .next ((s.setF a v).complete 0#64)) (hv : v.toNat = p) :
    ∃ t, exec i s = .next t ∧ t.rsp = completedWith 0#64 ∧ OnlyF [a] s t ∧ t.fpat a = p :=
  ⟨_, h, rfl, s.setF_complete_onlyF a v _, by rw [State.complete_fpat, State.setF_fpat_self, hv]⟩

/-- An `NF`-bit pattern is what a bfloat register holds of it. -/
theorem State.toNat_asBfloat (s : State) {p : Nat} (hp : p < 2 ^ s.cfg.nf) : (s.asBfloat p).toNat = p :=
  (BitVec.toNat_ofNat _ _).trans (Nat.mod_eq_of_lt hp)

theorem State.toNat_asBfloat_signedBody {s : State} (hc : s.cfg.InRange) (sign : Bool) {b : Nat}
    (hb : b < 2 ^ (s.cfg.nf - 1)) : (s.asBfloat (signedBody s.cfg sign b)).toNat = signedBody s.cfg sign b :=
  s.toNat_asBfloat (signedBody_lt hc sign hb)

/-- The sign that `FSETINF` and `FSETNAN` take from the operand. -/
theorem State.toNat_dinBit0 (s : State) : s.dinBit0.toNat = s.din.toNat % 2 := by
  rw [State.dinBit0, BitVec.getLsbD, Nat.toNat_testBit, Nat.pow_zero, Nat.div_one]

/-- Settles O56: the patterns written have a body below `2^(NF-1)`, so a register holds each of them whole. -/
theorem bfloatSettersAndRawAccess : Obligations.BfloatSettersAndRawAccess := by
  intro a s hc
  have hbodies := Nat.two_pow_pos (s.cfg.nf - 1)
  have hport : s.cfg.nf ≤ 64 := by
    obtain ⟨hnf, hnf'⟩ := hc.nf_eq
    obtain ⟨-, -, -, he, -, hF, -⟩ := hc
    omega
  refine ⟨⟨decodeOfEncodeIsTheCommand (.fsetz a) rfl, decodeOfEncodeIsTheCommand (.fsetinf a) rfl,
      decodeOfEncodeIsTheCommand (.fsetnan a) rfl, decodeOfEncodeIsTheCommand (.fmvx a) rfl,
      decodeOfEncodeIsTheCommand (.fmxv a) rfl⟩,
    exec_writes_bfloat rfl BitVec.toNat_zero, exec_writes_bfloat rfl ?_, exec_writes_bfloat rfl ?_,
    exec_writes_bfloat rfl (BitVec.toNat_setWidth _ _),
    _, _, rfl, rfl, s.complete_onlyResponse _, BitVec.toNat_setWidth_of_le hport⟩
  · rw [State.toNat_asBfloat_signedBody hc _ (by unfold allOnesBody; omega), signedBody, State.toNat_dinBit0]
    rfl
  · rw [State.toNat_asBfloat_signedBody hc _ (by unfold allOnesBody; omega), signedBody, State.toNat_dinBit0]
    rfl

/-- Settles O57: the class code is below 16, so the sign stands alone in bit 4. -/
theorem classifyReportsTheClassAndSign : Obligations.ClassifyReportsTheClassAndSign := by
  intro a s
  refine ⟨decodeOfEncodeIsTheCommand (.fclass a) rfl, fun _ =>
    ⟨_, BitVec.ofNat 64 (classCode (bfClass s.cfg (s.freg a).toNat) + 16 * (bfSign s.cfg (s.freg a).toNat).toNat), rfl, rfl,
      s.complete_onlyResponse _, ?_⟩⟩
  have hcode := classCode_le_five (bfClass s.cfg (s.freg a).toNat)
  have hsign := Bool.toNat_lt (bfSign s.cfg (s.freg a).toNat)
  rw [BitVec.getLsbD, BitVec.toNat_ofNat, Nat.mod_eq_of_lt (by omega)]
  refine ⟨by omega, ?_, ?_⟩
  · have hbit : (classCode (bfClass s.cfg (s.freg a).toNat) + 16 * (bfSign s.cfg (s.freg a).toNat).toNat) / 2 ^ 4 % 2 =
        (bfSign s.cfg (s.freg a).toNat).toNat := by omega
    rw [Nat.testBit_eq_decide_div_mod_eq, hbit]
    simp only [Bool.toNat_eq_one, Bool.decide_eq_true, bfSign, BitVec.getLsbD]
  · rintro b rfl
    rw [Nat.add_mul_mod_self_left, Nat.mod_eq_of_lt (by omega)]
    exact classCode_bfClass _ _

end Sys2Proof.Machine

namespace Sys2Proof

/-- A format AB word with a non-zero `C` field is rejected at the check of the unused fields (R71, R79 step 3). -/
theorem decode_wordABC_unusedFieldSet {op : Nat} {a b c : Fin 8} {i : Instr} (hop : op < 2 ^ 8)
    (hl : lookupOp op a b c = some (.ab, i)) (hc : c ≠ 0) : decode (wordABC op a b c) = .error .unusedFieldSet := by
  obtain ⟨hz, ho, ha, hb, hc'⟩ := wordABC_fields hop a b c
  simp only [decode, hz, ho, ha, hb, hc', hl, unusedFieldsZero]
  simp [hc]

end Sys2Proof

namespace Sys2Proof.Machine

/-- Settles O58: each of the four opcodes has a row of format AB, and each command is the fault alone. -/
theorem bfloatArithmeticIsRejected : Obligations.BfloatArithmeticIsRejected := by
  intro a b s
  refine ⟨⟨decodeOfEncodeIsTheCommand (.fadd a b) rfl, decodeOfEncodeIsTheCommand (.fsub a b) rfl,
      decodeOfEncodeIsTheCommand (.fmul a b) rfl, decodeOfEncodeIsTheCommand (.fdiv a b) rfl⟩, fun c hc op hop => ?_,
    ⟨_, rfl, s.raise_raises _⟩, ⟨_, rfl, s.raise_raises _⟩, ⟨_, rfl, s.raise_raises _⟩, ⟨_, rfl, s.raise_raises _⟩⟩
  simp only [List.mem_cons, List.not_mem_nil, or_false] at hop
  obtain rfl | rfl | rfl | rfl := hop
  · exact decode_wordABC_unusedFieldSet (i := .fadd a b) (by decide) rfl hc
  · exact decode_wordABC_unusedFieldSet (i := .fsub a b) (by decide) rfl hc
  · exact decode_wordABC_unusedFieldSet (i := .fmul a b) (by decide) rfl hc
  · exact decode_wordABC_unusedFieldSet (i := .fdiv a b) (by decide) rfl hc

end Sys2Proof.Machine

/-! ### The magnitude of a body (R204)

bfloat and binary64 both read a body as an exponent field over `F` fraction bits. `magnitude F b` is the magnitude of the body
`b` in units of the smallest subnormal, so that comparing values is comparing natural numbers. -/

namespace Sys2Proof.Machine

/-- The magnitude of a body with `F` fraction bits, in units of the smallest subnormal. -/
def magnitude (F b : Nat) : Nat :=
  if b / 2 ^ F = 0 then b % 2 ^ F else (2 ^ F + b % 2 ^ F) * 2 ^ (b / 2 ^ F - 1)

theorem magnitude_of_lt {F b : Nat} (h : b < 2 ^ F) : magnitude F b = b := by
  rw [magnitude, if_pos (Nat.div_eq_of_lt h), Nat.mod_eq_of_lt h]

@[simp] theorem magnitude_zero (F : Nat) : magnitude F 0 = 0 := magnitude_of_lt (Nat.two_pow_pos F)

/-- The magnitude of the body with exponent field `g + 1` and fraction `f`. -/
theorem magnitude_normal {F f : Nat} (g : Nat) (hf : f < 2 ^ F) :
    magnitude F ((g + 1) * 2 ^ F + f) = (2 ^ F + f) * 2 ^ g := by
  have hdiv : ((g + 1) * 2 ^ F + f) / 2 ^ F = g + 1 := by
    rw [Nat.mul_comm, Nat.mul_add_div (by positivity), Nat.div_eq_of_lt hf, Nat.add_zero]
  rw [magnitude, hdiv, if_neg (Nat.succ_ne_zero g), Nat.mul_add_mod', Nat.mod_eq_of_lt hf, Nat.add_sub_cancel]

/-- A significand `r` that is added to `g` exponent steps stands for `r * 2^g`, also where it has carried to `2^(F+1)`
("bodies are contiguous", R213). -/
theorem magnitude_add {F g r : Nat} (hr : g = 0 ∨ 2 ^ F ≤ r) (hr' : r ≤ 2 ^ (F + 1)) :
    magnitude F (g * 2 ^ F + r) = r * 2 ^ g := by
  rw [Nat.pow_succ'] at hr'
  rcases Nat.lt_or_ge r (2 ^ F) with hlt | hge
  · obtain rfl : g = 0 := by omega
    rw [Nat.zero_mul, Nat.zero_add, magnitude_of_lt hlt, Nat.pow_zero, Nat.mul_one]
  · obtain ⟨f, rfl⟩ := Nat.exists_eq_add_of_le hge
    rcases Nat.lt_or_ge f (2 ^ F) with hf | hf
    · rw [← magnitude_normal g hf]
      congr 1
      ring
    · obtain rfl : f = 2 ^ F := by omega
      rw [show g * 2 ^ F + (2 ^ F + 2 ^ F) = (g + 1 + 1) * 2 ^ F + 0 by ring, magnitude_normal (g + 1) (by positivity)]
      ring

/-- Every body is a significand on top of exponent steps. -/
theorem exists_significand (F b : Nat) : ∃ g r, b = g * 2 ^ F + r ∧ (g = 0 ∨ 2 ^ F ≤ r) ∧ r < 2 ^ (F + 1) := by
  rcases Nat.lt_or_ge b (2 ^ F) with hlt | hge
  · exact ⟨0, b, by omega, .inl rfl, by rw [Nat.pow_succ']; omega⟩
  · have hrem := Nat.mod_lt b (Nat.two_pow_pos F)
    have hquot : b / 2 ^ F - 1 + 1 = b / 2 ^ F := Nat.sub_add_cancel (Nat.div_pos hge (by positivity))
    refine ⟨b / 2 ^ F - 1, 2 ^ F + b % 2 ^ F, ?_, .inr (Nat.le_add_right _ _), by rw [Nat.pow_succ']; omega⟩
    rw [← Nat.add_assoc, ← Nat.succ_mul, Nat.succ_eq_add_one, hquot, Nat.div_add_mod']

/-- "The bodies of the finite classes order as their magnitudes do" (R205). -/
theorem magnitude_strictMono (F : Nat) : StrictMono (magnitude F) := by
  refine strictMono_nat_of_lt_succ fun b => ?_
  obtain ⟨g, r, rfl, hr, hr'⟩ := exists_significand F b
  rw [magnitude_add hr hr'.le, Nat.add_assoc, magnitude_add (hr.imp_right fun h => h.trans (Nat.le_succ r)) hr']
  exact Nat.mul_lt_mul_of_pos_right (Nat.lt_succ_self r) (by positivity)

/-- From `2^(F+g)` on, the magnitudes are multiples of `2^g`. -/
theorem exists_magnitude_eq_mul {F g b : Nat} (h : 2 ^ (F + g) ≤ magnitude F b) : ∃ n, magnitude F b = n * 2 ^ g := by
  obtain ⟨g', r, rfl, hr, hr'⟩ := exists_significand F b
  rw [magnitude_add hr hr'.le] at h ⊢
  have hstep : g ≤ g' := by
    have hlt : 2 ^ (F + g) < 2 ^ (F + 1 + g') :=
      h.trans_lt (by rw [Nat.pow_add]; exact Nat.mul_lt_mul_of_pos_right hr' (by positivity))
    have := (Nat.pow_lt_pow_iff_right (by decide)).1 hlt
    omega
  exact ⟨r * 2 ^ (g' - g), by rw [Nat.mul_assoc, ← Nat.pow_add, Nat.sub_add_cancel hstep]⟩

end Sys2Proof.Machine

/-! ### The rounded multiple of R206 -/

namespace Sys2Proof.Machine

/-- `q + up`: "The rounded result" of R206. -/
def rneRound (m sh : Nat) : Nat := (rneShift m sh).1 + (rneShift m sh).2

/-- A multiple of `2^sh` is rounded to itself. -/
theorem rneRound_mul_two_pow (n sh : Nat) : rneRound (n * 2 ^ sh) sh = n := by
  have hunit := Nat.two_pow_pos sh
  rw [rneRound, rneShift_fst, rneShift_snd, Nat.mul_mod_left, Nat.mul_div_cancel _ hunit, if_neg (by omega), Nat.add_zero]

/-- Rounding is monotonic. -/
theorem rneRound_mono (sh : Nat) {m m' : Nat} (h : m ≤ m') : rneRound m sh ≤ rneRound m' sh := by
  have hup := rneShift_snd_le_one m sh
  rcases (Nat.div_le_div_right (c := 2 ^ sh) h).lt_or_eq with hlt | heq
  · rw [rneRound, rneRound, rneShift_fst, rneShift_fst]
    omega
  · have hrem : m % 2 ^ sh ≤ m' % 2 ^ sh := by
      have hm := Nat.div_add_mod m (2 ^ sh)
      have hm' := Nat.div_add_mod m' (2 ^ sh)
      rw [← heq] at hm'
      omega
    rw [rneRound, rneRound, rneShift_fst, rneShift_fst, rneShift_snd, rneShift_snd, heq]
    split_ifs <;> omega

/-- An added even multiple of `2^sh` comes out of the rounding unchanged. -/
theorem rneRound_add_even (n m sh : Nat) : rneRound (2 * n * 2 ^ sh + m) sh = 2 * n + rneRound m sh := by
  have hdiv : (2 * n * 2 ^ sh + m) / 2 ^ sh = 2 * n + m / 2 ^ sh := by
    rw [Nat.mul_comm (2 * n), Nat.mul_add_div (by positivity)]
  simp only [rneRound, rneShift_fst, rneShift_snd, Nat.mul_add_mod', hdiv, Nat.mul_add_mod]
  omega

/-- No multiple of `2^sh` is closer to `m` than the rounded one, and if another is as close, the rounded one is even (R206). -/
theorem rneRound_nearest (m sh n : Nat) :
    |(rneRound m sh * 2 ^ sh : Int) - m| ≤ |(n * 2 ^ sh : Int) - m| ∧
    (n ≠ rneRound m sh → |(rneRound m sh * 2 ^ sh : Int) - m| = |(n * 2 ^ sh : Int) - m| → rneRound m sh % 2 = 0) := by
  obtain ⟨hle, heven⟩ := rneShift_nearest m sh
  rw [← rneRound] at hle heven
  push_cast at hle heven
  rcases eq_or_ne n (rneRound m sh) with rfl | hne
  · exact ⟨le_rfl, fun h => absurd rfl h⟩
  · have hgap : (2 : Int) ^ sh ≤ |(rneRound m sh * 2 ^ sh : Int) - m| + |(n * 2 ^ sh : Int) - m| :=
      calc (2 : Int) ^ sh = 1 * 2 ^ sh := (one_mul _).symm
        _ ≤ |(rneRound m sh : Int) - n| * 2 ^ sh := by
            gcongr
            exact Int.one_le_abs (by omega)
        _ = |((rneRound m sh * 2 ^ sh : Int) - m) - ((n * 2 ^ sh : Int) - m)| := by
            rw [sub_sub_sub_cancel_right, ← sub_mul, abs_mul, abs_of_pos (a := (2 : Int) ^ sh) (by positivity)]
        _ ≤ _ := abs_sub _ _
    exact ⟨by omega, fun _ heq => heven (by omega)⟩

end Sys2Proof.Machine

/-! ### The body nearest to a source (R212, R213)

A source `m * 2^k` with a 53-bit significand `m` is measured in units of `2^(EMIN_SUB - 52)`, `k` being the distance of its
exponent from `EMIN_SUB`; a body `b` then stands for `magnitude F b * 2^52`. -/

namespace Sys2Proof.Machine

/-- The body that R212 and R213 round the source to: R212 above `F` exponent steps, R213 below. -/
def roundedBody (F k m : Nat) : Nat := (k - min k F) * 2 ^ F + rneRound m (52 - min k F)

/-- The distance of a body's magnitude from the source. -/
def distance (F k m b : Nat) : Int := |(magnitude F b * 2 ^ 52 : Int) - m * 2 ^ k|

/-- Of three points, if the upper one is no farther from `s` than the middle one, the lower one is farther. -/
theorem abs_sub_lt_of_nearer_above {low mid up s : Int} (hlow : low < mid) (hup : mid < up) (h : |up - s| ≤ |mid - s|) :
    |mid - s| < |low - s| := by
  have hmid : mid < s := by
    by_contra! hge
    rw [abs_of_nonneg (by linarith), abs_of_nonneg (by linarith)] at h
    linarith
  rw [abs_of_neg (by linarith), abs_of_neg (by linarith)]
  linarith

section
variable {F k m : Nat} (hF : F ≤ 52) (hm : 2 ^ 52 ≤ m) (hm' : m ≤ 2 ^ 53)
include hF hm hm'

/-- The rounded significand stays in its binade or reaches the end of it. -/
theorem rneRound_bounds : 2 ^ min k F ≤ rneRound m (52 - min k F) ∧ rneRound m (52 - min k F) ≤ 2 ^ (min k F + 1) := by
  have hlow := rneRound_mono (52 - min k F) hm
  have hhigh := rneRound_mono (52 - min k F) hm'
  rw [show 2 ^ 52 = 2 ^ min k F * 2 ^ (52 - min k F) by rw [← Nat.pow_add]; congr 1; omega, rneRound_mul_two_pow] at hlow
  rw [show 2 ^ 53 = 2 ^ (min k F + 1) * 2 ^ (52 - min k F) by rw [← Nat.pow_add]; congr 1; omega,
    rneRound_mul_two_pow] at hhigh
  exact ⟨hlow, hhigh⟩

theorem magnitude_roundedBody :
    magnitude F (roundedBody F k m) = rneRound m (52 - min k F) * 2 ^ (k - min k F) := by
  obtain ⟨hlow, hhigh⟩ := rneRound_bounds (k := k) hF hm hm'
  refine magnitude_add ?_ (hhigh.trans (Nat.pow_le_pow_right two_pos (by omega)))
  rcases Nat.le_total k F with hk | hk
  · exact .inl (by omega)
  · rw [Nat.min_eq_right hk] at hlow ⊢
    exact .inr hlow

/-- The rounded body stays in the source's binade or reaches the end of it. -/
theorem magnitude_roundedBody_bounds :
    2 ^ k ≤ magnitude F (roundedBody F k m) ∧ magnitude F (roundedBody F k m) ≤ 2 ^ (k + 1) := by
  obtain ⟨hlow, hhigh⟩ := rneRound_bounds (k := k) hF hm hm'
  have hscale (j : Nat) : 2 ^ (min k F + j) * 2 ^ (k - min k F) = 2 ^ (k + j) := by
    rw [← Nat.pow_add]
    congr 1
    omega
  rw [magnitude_roundedBody hF hm hm', ← hscale 1]
  exact ⟨(hscale 0).symm.le.trans (Nat.mul_le_mul_right _ hlow), Nat.mul_le_mul_right _ hhigh⟩

omit hm hm' in
/-- The distance of a multiple of the source's unit in the last place. -/
theorem abs_grid_sub (n : Nat) :
    |((n * 2 ^ (k - min k F) : Nat) * 2 ^ 52 : Int) - m * 2 ^ k| = |(n * 2 ^ (52 - min k F) : Int) - m| * 2 ^ k := by
  have hscale : (2 : Int) ^ (k - min k F) * 2 ^ 52 = 2 ^ (52 - min k F) * 2 ^ k := by
    rw [← pow_add, ← pow_add]
    congr 1
    omega
  rw [Nat.cast_mul, Nat.cast_pow, Nat.cast_ofNat, mul_assoc, hscale, ← mul_assoc, ← sub_mul, abs_mul,
    abs_of_pos (a := (2 : Int) ^ k) (by positivity)]

omit hm' in
/-- Every body is a multiple of the source's unit in the last place, or farther from the source than one: a body below the
source's binade is farther than the binade's low end. -/
theorem exists_grid_le_distance (b : Nat) :
    ∃ n, magnitude F b = n * 2 ^ (k - min k F) ∨ |(n * 2 ^ (52 - min k F) : Int) - m| * 2 ^ k < distance F k m b := by
  rcases Nat.le_total k F with hk | hk
  · exact ⟨magnitude F b, .inl (by rw [Nat.min_eq_left hk, Nat.sub_self, Nat.pow_zero, Nat.mul_one])⟩
  · rcases Nat.lt_or_ge (magnitude F b) (2 ^ (F + (k - F))) with hlt | hge
    · refine ⟨2 ^ F, .inr ?_⟩
      have hsource : 2 ^ k * 2 ^ 52 ≤ m * 2 ^ k := by rw [Nat.mul_comm]; exact Nat.mul_le_mul_right _ hm
      rw [← abs_grid_sub hF, distance, Nat.min_eq_right hk, ← Nat.pow_add]
      rw [Nat.add_sub_of_le hk] at hlt ⊢
      zify at hlt hsource
      push_cast
      rw [abs_of_nonpos (by linarith), abs_of_nonpos (by linarith)]
      linarith
    · obtain ⟨n, hn⟩ := exists_magnitude_eq_mul hge
      exact ⟨n, .inl (by rw [Nat.min_eq_right hk, hn])⟩

/-- No body is closer to the source than the rounded one; if another is as close, the rounded one is even. -/
theorem roundedBody_nearest (hF' : 0 < F) (b : Nat) :
    distance F k m (roundedBody F k m) ≤ distance F k m b ∧
    (b ≠ roundedBody F k m → distance F k m (roundedBody F k m) = distance F k m b → roundedBody F k m % 2 = 0) := by
  have hrounded : distance F k m (roundedBody F k m) =
      |(rneRound m (52 - min k F) * 2 ^ (52 - min k F) : Int) - m| * 2 ^ k := by
    rw [distance, magnitude_roundedBody hF hm hm', abs_grid_sub hF]
  obtain ⟨n, hn⟩ := exists_grid_le_distance (k := k) hF hm b
  obtain ⟨hle, htie⟩ := rneRound_nearest m (52 - min k F) n
  have hle' := mul_le_mul_of_nonneg_right hle (by positivity : (0 : Int) ≤ 2 ^ k)
  rw [hrounded]
  rcases hn with hn | hn
  · rw [distance, hn, abs_grid_sub hF]
    refine ⟨hle', fun hne heq => ?_⟩
    have hother : n ≠ rneRound m (52 - min k F) := by
      rintro rfl
      exact hne ((magnitude_strictMono F).injective (hn.trans (magnitude_roundedBody hF hm hm').symm))
    have hodd := htie hother (mul_right_cancel₀ (by positivity) heq)
    obtain ⟨j, rfl⟩ := Nat.exists_eq_succ_of_ne_zero hF'.ne'
    rw [roundedBody, Nat.pow_succ, ← Nat.mul_assoc]
    omega
  · exact ⟨hle'.trans hn.le, fun _ heq => absurd heq (hle'.trans_lt hn).ne⟩

/-- The rounded body cut off at the largest body `top` (R210) is nearest among the bodies up to `top`: where it is cut off, the
source lies above `top`. -/
theorem min_roundedBody_nearest (hF' : 0 < F) {top b : Nat} (hb : b ≤ top) :
    distance F k m (min top (roundedBody F k m)) ≤ distance F k m b ∧
    (b ≠ min top (roundedBody F k m) → distance F k m (min top (roundedBody F k m)) = distance F k m b →
      min top (roundedBody F k m) % 2 = 0) := by
  rcases Nat.lt_or_ge top (roundedBody F k m) with hcut | hfit
  · rw [Nat.min_eq_left hcut.le]
    rcases hb.eq_or_lt with rfl | hlt
    · exact ⟨le_rfl, fun h => absurd rfl h⟩
    · have habove := magnitude_strictMono F hcut
      have hbelow := magnitude_strictMono F hlt
      zify at habove hbelow
      have hfar : distance F k m top < distance F k m b :=
        abs_sub_lt_of_nearer_above (by linarith) (by linarith) (roundedBody_nearest hF hm hm' hF' top).1
      exact ⟨hfar.le, fun _ heq => absurd heq hfar.ne⟩
  · rw [Nat.min_eq_right hfit]
    exact roundedBody_nearest hF hm hm' hF' b

/-- The rounded body, also when cut off, is closer to the source than zero is. -/
theorem distance_min_roundedBody_lt (hF' : 0 < F) {top : Nat} (htop : 0 < top) :
    distance F k m (min top (roundedBody F k m)) < m * 2 ^ k := by
  have hunit : (2 : Int) ^ 52 ≤ m * 2 ^ k := by
    have hscale := Nat.mul_le_mul hm (Nat.one_le_two_pow (n := k))
    zify at hscale
    linarith
  have hone := (min_roundedBody_nearest (k := k) hF hm hm' hF' (b := 1) htop).1
  have hmag : magnitude F 1 = 1 := magnitude_of_lt (Nat.one_lt_two_pow hF'.ne')
  have hdist : distance F k m 1 = m * 2 ^ k - 2 ^ 52 := by
    rw [distance, hmag, Nat.cast_one, one_mul, abs_of_nonpos (by linarith)]
    ring
  linarith

/-- Rounding is monotonic in the exponent and the significand, taken together. -/
theorem roundedBody_mono {k' n : Nat} (hn : 2 ^ 52 ≤ n) (hn' : n ≤ 2 ^ 53) (h : k < k' ∨ k = k' ∧ m ≤ n) :
    roundedBody F k m ≤ roundedBody F k' n := by
  rw [← (magnitude_strictMono F).le_iff_le]
  rcases h with hlt | ⟨rfl, hle⟩
  · calc magnitude F (roundedBody F k m) ≤ 2 ^ (k + 1) := (magnitude_roundedBody_bounds hF hm hm').2
      _ ≤ 2 ^ k' := Nat.pow_le_pow_right two_pos hlt
      _ ≤ magnitude F (roundedBody F k' n) := (magnitude_roundedBody_bounds hF hn hn').1
  · rw [magnitude_roundedBody hF hm hm', magnitude_roundedBody hF hn hn']
    exact Nat.mul_le_mul_right _ (rneRound_mono _ hle)

end

end Sys2Proof.Machine

/-! ### The encoder (R207 to R213) -/

namespace Sys2Proof.Machine

/-- The exponent constants of R8 in terms of `2^(E-1)`. -/
theorem exponent_constants {c : Config} (hc : c.InRange) :
    emax c = (2 ^ (c.e - 1) : Nat) ∧ eminNormal c = 2 - (2 ^ (c.e - 1) : Nat) ∧
    eminSub c = 2 - (2 ^ (c.e - 1) : Nat) - c.fracBits ∧ (bias c : Int) = (2 ^ (c.e - 1) : Nat) - 1 := by
  have hhalf := hc.two_pow_pred_e
  refine ⟨by simp [emax], by simp [eminNormal], by simp [eminSub, eminNormal], ?_⟩
  unfold bias
  omega

/-- The largest finite body is above the subnormal ones and below the special ones (R205). -/
theorem largest_body_bounds {c : Config} (hc : c.InRange) :
    2 ^ c.fracBits ≤ allOnesBody c - 2 ∧ allOnesBody c - 2 < allOnesBody c - 1 ∧ allOnesBody c - 1 < allOnesBody c ∧
    allOnesBody c < 2 ^ (c.nf - 1) := by
  have hsmall := hc.four_mul_le_bodies
  have hF := hc.four_le_two_pow_fracBits
  unfold allOnesBody
  omega

/-- The significand of a binary64 source, with the hidden bit (R213). -/
def significand (d : BitVec 64) : Nat := 2 ^ 52 + dblFrac d

/-- How far the exponent of a source is above `EMIN_SUB`. -/
def exponentSteps (c : Config) (e : Int) : Nat := (e - eminSub c).toNat

theorem dblFrac_lt (d : BitVec 64) : dblFrac d < 2 ^ 52 := (d.extractLsb' 0 52).isLt

theorem dblExp_lt (d : BitVec 64) : dblExp d < 2 ^ 11 := (d.extractLsb' 52 11).isLt

/-- The hidden bit comes out of R212's shift as `2^F`. -/
theorem rneRound_hidden_bit {F : Nat} (hF : 0 < F) (hF' : F ≤ 52) (fs : Nat) :
    rneRound (2 ^ 52 + fs) (52 - F) = 2 ^ F + rneRound fs (52 - F) := by
  obtain ⟨j, rfl⟩ := Nat.exists_eq_succ_of_ne_zero hF.ne'
  rw [show 2 ^ 52 = 2 * 2 ^ j * 2 ^ (52 - (j + 1)) by rw [← Nat.pow_succ', ← Nat.pow_add]; congr 1; omega,
    rneRound_add_even, Nat.pow_succ', Nat.succ_eq_add_one]

theorem fencPattern_of_infinity (c : Config) {d : BitVec 64} (h : dblExp d = 0x7FF) (hfrac : dblFrac d = 0) :
    fencPattern c d = signedBody c (dblSign d) (allOnesBody c - 1) := by
  rw [fencPattern, if_neg (fun hnan => hnan.2 hfrac), if_pos h]

theorem fencPattern_of_nan (c : Config) {d : BitVec 64} (h : dblExp d = 0x7FF) (hfrac : dblFrac d ≠ 0) :
    fencPattern c d = signedBody c (!(dblFrac d).testBit 51) (allOnesBody c) := by
  rw [fencPattern, if_pos ⟨h, hfrac⟩]

section
variable {c : Config} (hc : c.InRange) {e : Int} {fs : Nat}
include hc

/-- R212 with R210 is the rounded body, cut off at the largest finite one. -/
theorem encodeNormal_eq (he : eminNormal c ≤ e) :
    encodeNormal c e fs = min (allOnesBody c - 2) (roundedBody c.fracBits (exponentSteps c e) (2 ^ 52 + fs)) := by
  obtain ⟨-, hnormal, hsub, hbias⟩ := exponent_constants hc
  obtain ⟨-, hinf, -, -⟩ := largest_body_bounds hc
  obtain ⟨hF, hF'⟩ := hc.fracBits_bounds
  obtain ⟨j, hj⟩ : ∃ j, exponentSteps c e = j + c.fracBits :=
    Nat.exists_eq_add_of_le' (by unfold exponentSteps; omega)
  have hfield : (e + bias c).toNat = j + 1 := by
    unfold exponentSteps at hj
    omega
  have hbody : (e + bias c).toNat * 2 ^ c.fracBits + (rneShift fs (52 - c.fracBits)).1 + (rneShift fs (52 - c.fracBits)).2 =
      roundedBody c.fracBits (exponentSteps c e) (2 ^ 52 + fs) := by
    rw [roundedBody, hj, hfield, Nat.min_eq_right (Nat.le_add_left _ _), Nat.add_sub_cancel,
      rneRound_hidden_bit (by omega) hF', rneRound]
    ring
  simp only [encodeNormal, hbody]
  split_ifs <;> omega

/-- R213 is the rounded body, which is below the largest finite one. -/
theorem encodeSubnormal_eq (he : eminSub c ≤ e) (he' : e < eminNormal c) (hfs : fs < 2 ^ 52) :
    encodeSubnormal c e fs = min (allOnesBody c - 2) (roundedBody c.fracBits (exponentSteps c e) (2 ^ 52 + fs)) := by
  obtain ⟨-, hnormal, hsub, -⟩ := exponent_constants hc
  obtain ⟨htop, -, -, -⟩ := largest_body_bounds hc
  obtain ⟨hF, hF'⟩ := hc.fracBits_bounds
  have hk : exponentSteps c e < c.fracBits := by unfold exponentSteps; omega
  have hshift : 52 - c.fracBits + (eminNormal c - e).toNat = 52 - exponentSteps c e := by unfold exponentSteps; omega
  have hhigh : rneRound (2 ^ 52 + fs) (52 - min (exponentSteps c e) c.fracBits) ≤ 2 ^ c.fracBits :=
    (rneRound_bounds hF' (by omega) (by omega)).2.trans (Nat.pow_le_pow_right two_pos (by omega))
  rw [Nat.min_eq_left hk.le] at hhigh
  rw [encodeSubnormal, roundedBody, hshift, Nat.min_eq_left hk.le, Nat.sub_self, Nat.zero_mul, Nat.zero_add,
    Nat.min_eq_right (hhigh.trans htop), rneRound]

/-- Above `EMAX` the rounded body is above the largest finite one. -/
theorem largest_body_le_roundedBody (he : emax c < e) (hfs : fs < 2 ^ 52) :
    allOnesBody c - 2 ≤ roundedBody c.fracBits (exponentSteps c e) (2 ^ 52 + fs) := by
  obtain ⟨hmax, -, hsub, -⟩ := exponent_constants hc
  have hhalf := hc.two_pow_pred_e
  have hbodies := hc.two_pow_pred_nf
  obtain ⟨hF, hF'⟩ := hc.fracBits_bounds
  have hk : 2 * 2 ^ (c.e - 1) - 1 + c.fracBits ≤ exponentSteps c e := by unfold exponentSteps; omega
  have hlow := (rneRound_bounds (k := exponentSteps c e) hF' (m := 2 ^ 52 + fs) (by omega) (by omega)).1
  rw [roundedBody, Nat.min_eq_right (by omega)] at *
  calc allOnesBody c - 2 ≤ 2 * 2 ^ (c.e - 1) * 2 ^ c.fracBits := by unfold allOnesBody; omega
    _ = (2 * 2 ^ (c.e - 1) - 1) * 2 ^ c.fracBits + 2 ^ c.fracBits := by
        rw [← Nat.succ_mul, Nat.succ_eq_add_one, Nat.sub_add_cancel (by omega)]
    _ ≤ _ := Nat.add_le_add (Nat.mul_le_mul_right _ (by omega)) hlow

/-- R210, R212 and R213 in one: a source from `2^EMIN_SUB` on gives the rounded body, cut off at the largest finite one. -/
theorem encodeFinite_eq (he : eminSub c ≤ e) (hfs : fs < 2 ^ 52) :
    encodeFinite c e fs = min (allOnesBody c - 2) (roundedBody c.fracBits (exponentSteps c e) (2 ^ 52 + fs)) := by
  unfold encodeFinite
  split_ifs with hmax hlow hnormal
  · exact (Nat.min_eq_left (largest_body_le_roundedBody hc hmax hfs)).symm
  · exact absurd he hlow.not_ge
  · exact encodeNormal_eq hc hnormal
  · exact encodeSubnormal_eq hc he (not_le.1 hnormal) hfs

/-- Below `2^EMIN_SUB` a source is flushed to zero (R211). -/
theorem encodeFinite_of_lt (he : e < eminSub c) : encodeFinite c e fs = 0 := by
  obtain ⟨hmax, -, hsub, -⟩ := exponent_constants hc
  have hhalf := hc.two_pow_pred_e
  rw [encodeFinite, if_neg (by omega), if_pos he]

theorem encodeFinite_le (hfs : fs < 2 ^ 52) : encodeFinite c e fs ≤ allOnesBody c - 2 := by
  rcases lt_or_ge e (eminSub c) with he | he
  · rw [encodeFinite_of_lt hc he]
    exact Nat.zero_le _
  · rw [encodeFinite_eq hc he hfs]
    exact Nat.min_le_left _ _

/-- The encoder is monotonic in the exponent and the fraction, taken together (R214 d). -/
theorem encodeFinite_mono {e' : Int} {fs' : Nat} (hfs : fs < 2 ^ 52) (hfs' : fs' < 2 ^ 52)
    (h : e < e' ∨ e = e' ∧ fs ≤ fs') : encodeFinite c e fs ≤ encodeFinite c e' fs' := by
  rcases lt_or_ge e (eminSub c) with he | he
  · rw [encodeFinite_of_lt hc he]
    exact Nat.zero_le _
  · have hsteps : exponentSteps c e < exponentSteps c e' ∨
        exponentSteps c e = exponentSteps c e' ∧ 2 ^ 52 + fs ≤ 2 ^ 52 + fs' := by
      unfold exponentSteps
      omega
    rw [encodeFinite_eq hc he hfs, encodeFinite_eq hc (by omega) hfs']
    exact min_le_min_left _ (roundedBody_mono hc.fracBits_bounds.2 (by omega) (by omega) (by omega) (by omega) hsteps)

/-- A finite source of any kind: zeros and binary64 subnormals are below `2^EMIN_SUB` (R209). -/
theorem fencPattern_of_finite {d : BitVec 64} (h : dblExp d ≠ 0x7FF) :
    fencPattern c d = signedBody c (dblSign d) (encodeFinite c ((dblExp d : Int) - 1023) (dblFrac d)) := by
  rw [fencPattern, if_neg (fun hnan => h hnan.1), if_neg h]
  split
  · next hzero =>
    have hlow : ((0 : Nat) : Int) - 1023 < eminSub c := by
      obtain ⟨-, -, hsub, -⟩ := exponent_constants hc
      have hhalf := hc.two_pow_pred_e
      have hF := hc.fracBits_bounds.2
      omega
    rw [hzero, encodeFinite_of_lt hc hlow]
  · rfl

theorem fencPattern_fields_of_finite {d : BitVec 64} (h : dblExp d ≠ 0x7FF) :
    bfBody c (fencPattern c d) = encodeFinite c ((dblExp d : Int) - 1023) (dblFrac d) ∧
      bfSign c (fencPattern c d) = dblSign d := by
  obtain ⟨-, hinf, hnan, hall⟩ := largest_body_bounds hc
  rw [fencPattern_of_finite hc h]
  exact signedBody_fields c _ ((encodeFinite_le hc (dblFrac_lt d)).trans_lt (hinf.trans (hnan.trans hall)))

theorem fencPattern_fields_of_infinity {d : BitVec 64} (h : dblExp d = 0x7FF) (hfrac : dblFrac d = 0) :
    bfBody c (fencPattern c d) = allOnesBody c - 1 ∧ bfSign c (fencPattern c d) = dblSign d := by
  obtain ⟨-, -, hnan, hall⟩ := largest_body_bounds hc
  rw [fencPattern_of_infinity c h hfrac]
  exact signedBody_fields c _ (hnan.trans hall)

/-- Every source gives an `NF`-bit pattern. -/
theorem fencPattern_lt (d : BitVec 64) : fencPattern c d < 2 ^ c.nf := by
  obtain ⟨-, hinf, hnan, hall⟩ := largest_body_bounds hc
  have hfinite := encodeFinite_le hc (e := (dblExp d : Int) - 1023) (dblFrac_lt d)
  by_cases h : dblExp d = 0x7FF
  · by_cases hfrac : dblFrac d = 0
    · rw [fencPattern_of_infinity _ h hfrac]
      exact signedBody_lt hc _ (by omega)
    · rw [fencPattern_of_nan _ h hfrac]
      exact signedBody_lt hc _ hall
  · rw [fencPattern_of_finite hc h]
    exact signedBody_lt hc _ (by omega)

end

/-- `FENC` completes and writes the pattern of R207 whole. -/
theorem exec_fenc (a : FReg) {s : State} (hc : s.cfg.InRange) :
    ∃ t, exec (.fenc a) s = .next t ∧ t.rsp = completedWith 0#64 ∧ OnlyF [a] s t ∧ t.fpat a = fencPattern s.cfg s.din :=
  exec_writes_bfloat rfl (s.toNat_asBfloat (fencPattern_lt hc s.din))

theorem fpat_of_exec_fenc {a : FReg} {s t : State} (hc : s.cfg.InRange) (h : exec (.fenc a) s = .next t) :
    t.fpat a = fencPattern s.cfg s.din := by
  obtain ⟨t', ht', -, -, hpat⟩ := exec_fenc a hc
  obtain rfl := Host.Outcome.next.inj (h.symm.trans ht')
  exact hpat

/-- The kind of a NaN is fraction bit 51 (R208). -/
theorem testBit_dblFrac_51 (d : BitVec 64) : (dblFrac d).testBit 51 = d.getLsbD 51 := by
  rw [dblFrac, ← BitVec.getLsbD, BitVec.getLsbD_extractLsb']
  rfl

/-- Settles O51: one clause of R207's chain for each kind of source. -/
theorem encodeSpecialSources : Obligations.EncodeSpecialSources := by
  intro a s
  refine ⟨decodeOfEncodeIsTheCommand (.fenc a) rfl, fun hc => ?_⟩
  obtain ⟨t, ht, hrsp, honly, hpat⟩ := exec_fenc a hc
  obtain ⟨hmax, -, hsub, -⟩ := exponent_constants hc
  push_cast at hmax hsub
  refine ⟨t, ht, hrsp, honly, hpat ▸ fencPattern_lt hc s.din, fun h hfrac => ?_, fun h hfrac => ?_, fun h => ?_,
    fun h hlarge => ?_, fun _ hsmall => ?_⟩
  · rw [hpat, fencPattern_of_nan _ h hfrac, testBit_dblFrac_51, signedBody, allOnesBody]
    cases s.din.getLsbD 51 <;> simp
  · rw [hpat, fencPattern_of_infinity _ h hfrac]
    rfl
  · rw [hpat, fencPattern, if_neg (by omega), if_neg (by omega), if_pos h]
    rfl
  · rw [hpat, fencPattern_of_finite hc h, encodeFinite, if_pos (by rwa [hmax])]
    rfl
  · have hfinite : dblExp s.din ≠ 0x7FF := by
      have hhalf := hc.two_pow_pred_e
      zify at hhalf
      omega
    rw [hpat, fencPattern_of_finite hc hfinite, encodeFinite_of_lt hc (by rwa [hsub])]
    rfl

end Sys2Proof.Machine

/-! ### Values as magnitudes (R12, R204) -/

namespace Sys2Proof.Machine

/-- The two formulas of R204, and those of R12: the value is the magnitude in units of the smallest subnormal. -/
theorem formula_eq_magnitude {F ef fr : Nat} (hfr : fr < 2 ^ F) (sign : ℚ) (emin : Int) :
    (if ef = 0 then sign * (2 : ℚ) ^ emin * (fr / 2 ^ F) else sign * (2 : ℚ) ^ (emin + ef - 1) * (1 + fr / 2 ^ F)) =
      sign * (magnitude F (ef * 2 ^ F + fr) * 2 ^ (emin - F)) := by
  rw [zpow_sub₀ two_ne_zero emin F, zpow_natCast]
  cases ef with
  | zero =>
    rw [if_pos rfl, Nat.zero_mul, Nat.zero_add, magnitude_of_lt hfr]
    ring
  | succ g =>
    rw [if_neg (Nat.succ_ne_zero g), magnitude_normal g hfr, show emin + (g + 1 : Nat) - 1 = emin + g by push_cast; ring,
      zpow_add₀ two_ne_zero, zpow_natCast]
    push_cast
    field_simp

theorem bfValue_eq {c : Config} (hc : c.InRange) (p : Nat) :
    bfValue c p = signFactor (bfSign c p) * (magnitude c.fracBits (bfBody c p) * 2 ^ eminSub c) := by
  have hfrac : bfFrac c p < 2 ^ c.fracBits := Nat.mod_lt _ (by positivity)
  have hbody : bfExp c p * 2 ^ c.fracBits + bfFrac c p = bfBody c p := by
    rw [bfFrac_eq hc, bfExp, Nat.div_add_mod']
  have hexp : eminNormal c + bfExp c p - 1 = bfExp c p - bias c := by
    obtain ⟨-, hnormal, -, hbias⟩ := exponent_constants hc
    omega
  rw [bfValue, ← hbody, eminSub, ← formula_eq_magnitude hfrac, hexp]

theorem dblValue_eq (d : BitVec 64) :
    dblValue d = signFactor (dblSign d) * (magnitude 52 (dblExp d * 2 ^ 52 + dblFrac d) * 2 ^ (-1074 : Int)) := by
  have h := formula_eq_magnitude (ef := dblExp d) (dblFrac_lt d) (signFactor (dblSign d)) (-1022)
  rw [show -1022 + (dblExp d : Int) - 1 = dblExp d - 1023 by ring] at h
  exact h

/-- The value of a normal binary64 by its significand. -/
theorem dblValue_of_normal {d : BitVec 64} (hd : dblExp d ≠ 0) :
    dblValue d = signFactor (dblSign d) * (significand d * 2 ^ ((dblExp d : Int) - 1075)) := by
  obtain ⟨g, hg⟩ := Nat.exists_eq_succ_of_ne_zero hd
  rw [dblValue_eq, hg, Nat.succ_eq_add_one, magnitude_normal g (dblFrac_lt d), significand,
    show ((g + 1 : Nat) : Int) - 1075 = g + -1074 by push_cast; ring, zpow_add₀ two_ne_zero, zpow_natCast]
  generalize (2 : ℚ) ^ (-1074 : Int) = unit
  push_cast
  ring

theorem abs_dblValue (d : BitVec 64) : |dblValue d| = magnitude 52 (dblExp d * 2 ^ 52 + dblFrac d) * 2 ^ (-1074 : Int) := by
  rw [dblValue_eq, abs_mul, abs_signFactor, one_mul, abs_of_nonneg (by positivity)]

/-- Magnitudes of doubles order as exponent and fraction do, taken together. -/
theorem abs_dblValue_le_iff (d d' : BitVec 64) :
    |dblValue d| ≤ |dblValue d'| ↔ dblExp d < dblExp d' ∨ dblExp d = dblExp d' ∧ dblFrac d ≤ dblFrac d' := by
  have hfrac := dblFrac_lt d
  have hfrac' := dblFrac_lt d'
  rw [abs_dblValue, abs_dblValue, mul_le_mul_iff_left₀ (by positivity), Nat.cast_le, (magnitude_strictMono 52).le_iff_le]
  omega

/-- Settles O53: the body is below the NaN's for every kind of source but NaN, and monotonic in the source. -/
theorem encodeKeepsSignsAndOrder : Obligations.EncodeKeepsSignsAndOrder := by
  intro a s s' t t' hc hcfg ht ht'
  obtain ⟨-, hinf, hnan, -⟩ := largest_body_bounds hc
  have hle : encodeFinite s.cfg ((dblExp s.din : Int) - 1023) (dblFrac s.din) ≤ allOnesBody s.cfg - 2 :=
    encodeFinite_le hc (dblFrac_lt _)
  rw [fpat_of_exec_fenc hc ht, fpat_of_exec_fenc (hcfg ▸ hc) ht', hcfg]
  refine ⟨fun hnum => ?_, fun hd hd' hvalue => ?_, fun hd hd' hfrac => ?_⟩
  · by_cases hd : dblExp s.din = 0x7FF
    · obtain ⟨hbody, hsign⟩ := fencPattern_fields_of_infinity hc hd (by tauto)
      exact ⟨hsign, hbody ▸ hnan⟩
    · obtain ⟨hbody, hsign⟩ := fencPattern_fields_of_finite hc hd
      exact ⟨hsign, hbody ▸ hle.trans_lt (hinf.trans hnan)⟩
  · rw [(fencPattern_fields_of_finite hc hd).1, (fencPattern_fields_of_finite hc hd').1]
    have horder := (abs_dblValue_le_iff _ _).1 hvalue
    exact encodeFinite_mono hc (dblFrac_lt _) (dblFrac_lt _) (by omega)
  · rw [(fencPattern_fields_of_finite hc hd).1, (fencPattern_fields_of_infinity hc hd' hfrac).1]
    exact hle.trans_lt hinf

end Sys2Proof.Machine

/-! ### The nearest finite bfloat (R212, R213) -/

namespace Sys2Proof.Machine

theorem signFactor_of_ne {a b : Bool} (h : a ≠ b) : signFactor a = -signFactor b := by
  revert h
  cases a <;> cases b <;> simp [signFactor]

/-- The distance of a body's magnitude from a source, in units of `2^(EMIN_SUB - 52)`. -/
def sourceDistance (c : Config) (d : BitVec 64) (b : Nat) : Int :=
  distance c.fracBits (exponentSteps c ((dblExp d : Int) - 1023)) (significand d) b

section
variable {c : Config} (hc : c.InRange) {d : BitVec 64} (hd : dblExp d ≠ 0) (he : eminSub c ≤ (dblExp d : Int) - 1023)
include hc hd he

omit hc in
/-- The value of a source in units of `2^(EMIN_SUB - 52)`. -/
theorem dblValue_eq_steps :
    dblValue d = signFactor (dblSign d) *
      (significand d * 2 ^ exponentSteps c ((dblExp d : Int) - 1023) * 2 ^ (eminSub c - 52)) := by
  have hexp : (dblExp d : Int) - 1075 = (exponentSteps c ((dblExp d : Int) - 1023) : Int) + (eminSub c - 52) := by
    unfold exponentSteps
    omega
  rw [dblValue_of_normal hd, hexp, zpow_add₀ two_ne_zero, zpow_natCast, mul_assoc (significand d : ℚ)]

omit hd he in
/-- The value of a pattern in the same units. -/
theorem bfValue_eq_steps (q : Nat) :
    bfValue c q = signFactor (bfSign c q) * (magnitude c.fracBits (bfBody c q) * 2 ^ 52 * 2 ^ (eminSub c - 52)) := by
  have hunit : (2 : ℚ) ^ eminSub c = 2 ^ 52 * 2 ^ (eminSub c - 52) := by
    rw [← zpow_natCast, ← zpow_add₀ two_ne_zero]
    congr 1
    push_cast
    ring
  rw [bfValue_eq hc, hunit, mul_assoc (magnitude c.fracBits (bfBody c q) : ℚ)]

/-- The error of a pattern of the source's sign is the distance of its body. -/
theorem abs_bfValue_sub_of_sign_eq {q : Nat} (hq : bfSign c q = dblSign d) :
    |bfValue c q - dblValue d| = sourceDistance c d (bfBody c q) * 2 ^ (eminSub c - 52) := by
  rw [bfValue_eq_steps hc, dblValue_eq_steps hd he, hq, ← mul_sub, ← sub_mul, abs_mul, abs_signFactor, one_mul, abs_mul,
    abs_of_pos (a := (2 : ℚ) ^ (eminSub c - 52)) (by positivity), sourceDistance, distance]
  push_cast
  rfl

/-- The error of a pattern of the other sign is at least the source's magnitude. -/
theorem le_abs_bfValue_sub_of_sign_ne {q : Nat} (hq : bfSign c q ≠ dblSign d) :
    significand d * 2 ^ exponentSteps c ((dblExp d : Int) - 1023) * 2 ^ (eminSub c - 52) ≤ |bfValue c q - dblValue d| := by
  rw [bfValue_eq_steps hc, dblValue_eq_steps hd he, signFactor_of_ne hq, neg_mul, ← neg_add', ← mul_add, abs_neg, abs_mul,
    abs_signFactor, one_mul]
  exact (le_add_of_nonneg_left (by positivity)).trans (le_abs_self _)

omit hd he in
/-- A configuration in range and a significand meet the premises of `roundedBody`'s rules. -/
theorem rounding_premises :
    c.fracBits ≤ 52 ∧ 0 < c.fracBits ∧ 2 ^ 52 ≤ significand d ∧ significand d ≤ 2 ^ 53 ∧ 0 < allOnesBody c - 2 := by
  have hfrac := dblFrac_lt d
  have htop := (Nat.two_pow_pos _).trans_le (largest_body_bounds hc).1
  obtain ⟨hF, hF'⟩ := hc.fracBits_bounds
  unfold significand
  omega

variable (hd' : dblExp d ≠ 0x7FF)
include hd'

omit hd in
/-- The body that `FENC` writes for a source from `2^EMIN_SUB` on (R210, R212, R213). -/
theorem bfBody_fencPattern :
    bfBody c (fencPattern c d) = min (allOnesBody c - 2)
      (roundedBody c.fracBits (exponentSteps c ((dblExp d : Int) - 1023)) (significand d)) := by
  rw [(fencPattern_fields_of_finite hc hd').1, encodeFinite_eq hc he (dblFrac_lt d), significand]

omit hd in
theorem sourceDistance_fencPattern_lt :
    sourceDistance c d (bfBody c (fencPattern c d)) <
      significand d * 2 ^ exponentSteps c ((dblExp d : Int) - 1023) := by
  obtain ⟨hF, hF', hlow, hhigh, htop⟩ := rounding_premises hc (d := d)
  rw [bfBody_fencPattern hc he hd']
  exact distance_min_roundedBody_lt hF hlow hhigh hF' htop

omit hd in
theorem sourceDistance_fencPattern_le {b : Nat} (hb : b ≤ allOnesBody c - 2) :
    sourceDistance c d (bfBody c (fencPattern c d)) ≤ sourceDistance c d b ∧
    (b ≠ bfBody c (fencPattern c d) → sourceDistance c d (bfBody c (fencPattern c d)) = sourceDistance c d b →
      bfBody c (fencPattern c d) % 2 = 0) := by
  obtain ⟨hF, hF', hlow, hhigh, -⟩ := rounding_premises hc (d := d)
  rw [bfBody_fencPattern hc he hd']
  exact min_roundedBody_nearest hF hlow hhigh hF' hb

omit hd in
/-- A source from `2^EMIN_SUB` on does not give a zero: zero is as far from it as its magnitude. -/
theorem bfBody_fencPattern_ne_zero : bfBody c (fencPattern c d) ≠ 0 := by
  intro hzero
  have hlt := sourceDistance_fencPattern_lt hc he hd'
  rw [hzero, sourceDistance, distance, magnitude_zero, Nat.cast_zero, zero_mul, zero_sub, abs_neg,
    abs_of_nonneg (by positivity)] at hlt
  exact lt_irrefl _ hlt

/-- No numeric pattern is closer to the source than the one that `FENC` writes; if another is as close, the body written is
even. A pattern of the other sign is farther than zero is. -/
theorem fencPattern_nearest {q : Nat} (hq : q < 2 ^ c.nf) (hnum : isNumeric c q = true) :
    |bfValue c (fencPattern c d) - dblValue d| ≤ |bfValue c q - dblValue d| ∧
    (q ≠ fencPattern c d → |bfValue c (fencPattern c d) - dblValue d| = |bfValue c q - dblValue d| →
      bfBody c (fencPattern c d) % 2 = 0) := by
  have hunit := zpow_pos (two_pos (α := ℚ)) (eminSub c - 52)
  have hsign := (fencPattern_fields_of_finite hc hd').2
  rw [abs_bfValue_sub_of_sign_eq hc hd he hsign]
  by_cases hqs : bfSign c q = dblSign d
  · obtain ⟨hle, htie⟩ := sourceDistance_fencPattern_le hc he hd' ((isNumeric_iff hc q).1 hnum)
    rw [abs_bfValue_sub_of_sign_eq hc hd he hqs]
    refine ⟨mul_le_mul_of_nonneg_right (Int.cast_le.2 hle) hunit.le, fun hne heq => ?_⟩
    refine htie (fun hsame => hne ?_) (Int.cast_injective (mul_right_cancel₀ hunit.ne' heq))
    rw [← signedBody_of_fields hc hq, ← signedBody_of_fields hc (fencPattern_lt hc d), hqs, hsign, hsame]
  · have hnear : (sourceDistance c d (bfBody c (fencPattern c d)) : ℚ) <
        significand d * 2 ^ exponentSteps c ((dblExp d : Int) - 1023) := by
      exact_mod_cast sourceDistance_fencPattern_lt hc he hd'
    have hlt := (mul_lt_mul_of_pos_right hnear hunit).trans_le (le_abs_bfValue_sub_of_sign_ne hc hd he hqs)
    exact ⟨hlt.le, fun _ heq => absurd heq hlt.ne⟩

end

/-- Settles O52: the body written is the rounded one, cut off at the largest finite one, with the source's sign. -/
theorem encodeGivesTheNearestFinite : Obligations.EncodeGivesTheNearestFinite := by
  intro a s t hc hd hd' he ht
  rw [fpat_of_exec_fenc hc ht]
  exact ⟨(isNumeric_iff hc _).2 (bfBody_fencPattern hc he hd' ▸ Nat.min_le_left _ _), bfBody_fencPattern_ne_zero hc he hd',
    (fencPattern_fields_of_finite hc hd').2, fun q hq hnum => fencPattern_nearest hc hd he hd' hq hnum⟩

end Sys2Proof.Machine

/-! ### The decoder (R215 to R218) -/

namespace Sys2Proof.Machine

section
variable {c : Config} (hc : c.InRange) {p : Nat}
include hc

/-- A double of the sign of a pattern whose significand is `n`, scaled so that it has 53 bits, is exact if the pattern's
magnitude is `n` with `g` exponent steps. -/
theorem dblPattern_exact {n j g ef fr : Nat} (hmag : magnitude c.fracBits (bfBody c p) = n * 2 ^ g)
    (hn : 2 ^ 52 + fr = n * 2 ^ j) (hfr : fr < 2 ^ 52) (hef : (ef : Int) + j = eminSub c + 1075 + g) (hpos : 0 < ef)
    (hef' : ef < 0x7FF) :
    dblExp (dblPattern (bfSign c p) ef fr) ≠ 0x7FF ∧ dblSign (dblPattern (bfSign c p) ef fr) = bfSign c p ∧
    dblValue (dblPattern (bfSign c p) ef fr) = bfValue c p ∧ dblExp (dblPattern (bfSign c p) ef fr) ≠ 0 := by
  obtain ⟨hsign, hexp, -⟩ := dblPattern_fields (bfSign c p) (ef := ef) (by omega) hfr
  refine ⟨by omega, hsign, ?_, by omega⟩
  rw [dblValue_dblPattern _ (by omega) hpos hfr, bfValue_eq hc, hmag, hn]
  push_cast
  rw [mul_assoc (n : ℚ), mul_assoc (n : ℚ), ← zpow_natCast, ← zpow_natCast, ← zpow_add₀ two_ne_zero,
    ← zpow_add₀ two_ne_zero, show (j : Int) + (ef - 1075) = g + eminSub c by omega]

/-- The fields of a pattern whose exponent field is not zero. -/
theorem magnitude_of_bfExp_ne_zero (h : bfExp c p ≠ 0) :
    magnitude c.fracBits (bfBody c p) = (2 ^ c.fracBits + bfFrac c p) * 2 ^ (bfExp c p - 1) := by
  have hfrac : bfFrac c p < 2 ^ c.fracBits := Nat.mod_lt _ (by positivity)
  rw [← magnitude_normal _ hfrac, Nat.sub_add_cancel (Nat.pos_of_ne_zero h), bfFrac_eq hc, bfExp, Nat.div_add_mod']

theorem bfExp_lt : bfExp c p < 2 * 2 ^ (c.e - 1) :=
  Nat.div_lt_of_lt_mul (by rw [Nat.mul_comm, ← hc.two_pow_pred_nf]; exact bfBody_lt c p)

/-- R217: a normal pattern's significand is scaled by `2^(52-F)`. -/
theorem decodeNormal_exact (h : bfExp c p ≠ 0) :
    dblExp (decodeNormal c p) ≠ 0x7FF ∧ dblSign (decodeNormal c p) = bfSign c p ∧
    dblValue (decodeNormal c p) = bfValue c p ∧ dblExp (decodeNormal c p) ≠ 0 := by
  obtain ⟨-, -, hsub, hbias⟩ := exponent_constants hc
  have hhalf := hc.two_pow_pred_e
  have hexp := bfExp_lt hc (p := p)
  have hF := hc.fracBits_bounds.2
  have hscale : 2 ^ c.fracBits * 2 ^ (52 - c.fracBits) = 2 ^ 52 := by rw [← Nat.pow_add, Nat.add_sub_of_le hF]
  have hfrac : bfFrac c p < 2 ^ c.fracBits := Nat.mod_lt _ (by positivity)
  refine dblPattern_exact hc (magnitude_of_bfExp_ne_zero hc h) (j := 52 - c.fracBits) ?_ ?_ (by omega) (by omega) (by omega)
  · rw [Nat.add_mul, hscale]
  · rw [← hscale]
    exact Nat.mul_lt_mul_of_pos_right hfrac (by positivity)

/-- R218: a subnormal pattern's fraction is scaled so that its leading one is the hidden bit. -/
theorem decodeSubnormal_exact (h : bfExp c p = 0) (hbody : bfBody c p ≠ 0) :
    dblExp (decodeSubnormal c p) ≠ 0x7FF ∧ dblSign (decodeSubnormal c p) = bfSign c p ∧
    dblValue (decodeSubnormal c p) = bfValue c p ∧ dblExp (decodeSubnormal c p) ≠ 0 := by
  obtain ⟨-, hnormal, hsub, -⟩ := exponent_constants hc
  have hhalf := hc.two_pow_pred_e
  have hlt := (bfExp_eq_zero_iff c p).1 h
  have hfrac : bfFrac c p = bfBody c p := by rw [bfFrac_eq hc, Nat.mod_eq_of_lt hlt]
  have hmsb : Nat.log2 (bfBody c p) < c.fracBits := (Nat.log2_lt hbody).2 hlt
  have hF := hc.fracBits_bounds.2
  have hscale : 2 ^ Nat.log2 (bfBody c p) * 2 ^ (52 - Nat.log2 (bfBody c p)) = 2 ^ 52 := by
    rw [← Nat.pow_add, Nat.add_sub_of_le (by omega)]
  have hlow := Nat.log2_self_le hbody
  have hhigh := Nat.lt_log2_self (n := bfBody c p)
  simp only [decodeSubnormal, hfrac]
  refine dblPattern_exact hc (n := bfBody c p) (g := 0) (j := 52 - Nat.log2 (bfBody c p)) ?_ ?_ ?_
    (by omega) (by omega) (by omega)
  · rw [magnitude_of_lt hlt, Nat.pow_zero, Nat.mul_one]
  · rw [← hscale, ← Nat.add_mul, Nat.add_sub_of_le hlow]
  · rw [← hscale]
    rw [Nat.pow_succ] at hhigh
    exact Nat.mul_lt_mul_of_pos_right (by omega) (by positivity)

/-- `FDEC` is exact on the numeric classes, and only a zero gives the exponent field 0 (R215, R217, R218). -/
theorem fdecPattern_exact (h : isNumeric c p = true) :
    dblExp (fdecPattern c p) ≠ 0x7FF ∧ dblSign (fdecPattern c p) = bfSign c p ∧
    dblValue (fdecPattern c p) = bfValue c p ∧ (dblExp (fdecPattern c p) = 0 ↔ bfClass c p = .zero) := by
  obtain ⟨-, hinf, hnan, -⟩ := largest_body_bounds hc
  have hbody := (isNumeric_iff hc p).1 h
  by_cases hzero : bfBody c p = 0
  · have hclass : bfClass c p = .zero := if_pos hzero
    have hpat : fdecPattern c p = dblPattern (bfSign c p) 0 0 := by rw [fdecPattern, hclass]
    obtain ⟨hsign, hexp, hfrac⟩ := dblPattern_fields (bfSign c p) (ef := 0) (fr := 0) (by decide) (by decide)
    rw [hpat, dblValue_eq, bfValue_eq hc, hexp, hfrac, hzero, Nat.zero_mul, Nat.add_zero, magnitude_zero, magnitude_zero,
      Nat.cast_zero, zero_mul, zero_mul, mul_zero, mul_zero]
    exact ⟨by decide, hsign, rfl, iff_of_true rfl hclass⟩
  · by_cases hexp : bfExp c p = 0
    · have hclass : bfClass c p = .subnormal := by
        rw [bfClass, if_neg hzero, if_neg (by omega), if_neg (by omega), if_pos hexp]
      have hpat : fdecPattern c p = decodeSubnormal c p := by rw [fdecPattern, hclass]
      obtain ⟨hfinite, hsign, hvalue, hnormal⟩ := decodeSubnormal_exact hc hexp hzero
      rw [hpat, hclass]
      exact ⟨hfinite, hsign, hvalue, iff_of_false hnormal (by decide)⟩
    · have hclass : bfClass c p = .normal := by
        rw [bfClass, if_neg hzero, if_neg (by omega), if_neg (by omega), if_neg hexp]
      have hpat : fdecPattern c p = decodeNormal c p := by rw [fdecPattern, hclass]
      obtain ⟨hfinite, hsign, hvalue, hnormal⟩ := decodeNormal_exact hc hexp
      rw [hpat, hclass]
      exact ⟨hfinite, hsign, hvalue, iff_of_false hnormal (by decide)⟩

end

/-- Settles O54: the exact value for the numeric classes, one pattern of R216 for each of the others. -/
theorem decodeToDoubleIsExact : Obligations.DecodeToDoubleIsExact := by
  intro a s
  refine ⟨decodeOfEncodeIsTheCommand (.fdec a) rfl, fun hc =>
    ⟨_, _, rfl, rfl, s.complete_onlyResponse _, fdecPattern_exact hc, fun h => ?_, fun h => ?_, fun h => ?_⟩⟩
  · rw [fdecPattern, h]
    cases bfSign s.cfg (s.freg a).toNat <;> rfl
  · rw [fdecPattern, h]
  · rw [fdecPattern, h]

/-! ### `FENC` after `FDEC` (R214 a) -/

/-- Patterns of one sign and one value are one pattern: magnitudes are strictly monotonic in the body. -/
theorem eq_of_bfValue_eq {c : Config} (hc : c.InRange) {p q : Nat} (hp : p < 2 ^ c.nf) (hq : q < 2 ^ c.nf)
    (hsign : bfSign c p = bfSign c q) (hvalue : bfValue c p = bfValue c q) : p = q := by
  have hfactor : signFactor (bfSign c q) ≠ 0 := abs_pos.1 (by rw [abs_signFactor]; exact one_pos)
  rw [bfValue_eq hc, bfValue_eq hc, hsign] at hvalue
  have hmag := mul_right_cancel₀ (by positivity) (mul_left_cancel₀ hfactor hvalue)
  have hbody := (magnitude_strictMono c.fracBits).injective (Nat.cast_injective hmag)
  rw [← signedBody_of_fields hc hp, ← signedBody_of_fields hc hq, hsign, hbody]

/-- A double with the value of a pattern that is no zero is at or above `2^EMIN_SUB`. -/
theorem eminSub_le_of_dblValue_eq {c : Config} (hc : c.InRange) {p : Nat} {d : BitVec 64} (hd : dblExp d ≠ 0)
    (hp : bfBody c p ≠ 0) (h : dblValue d = bfValue c p) : eminSub c ≤ (dblExp d : Int) - 1023 := by
  have hsmallest : (1 : ℚ) ≤ magnitude c.fracBits (bfBody c p) := by
    exact_mod_cast (Nat.zero_le _).trans_lt (magnitude_strictMono c.fracBits (Nat.pos_of_ne_zero hp))
  have hsignificand : (significand d : ℚ) < 2 ^ 53 := by
    have := dblFrac_lt d
    exact_mod_cast show significand d < 2 ^ 53 by unfold significand; omega
  have hmagnitude : (significand d : ℚ) * 2 ^ ((dblExp d : Int) - 1075) =
      magnitude c.fracBits (bfBody c p) * 2 ^ eminSub c := by
    have habs := congrArg abs h
    rwa [dblValue_of_normal hd, bfValue_eq hc, abs_mul, abs_signFactor, one_mul, abs_of_nonneg (by positivity), abs_mul,
      abs_signFactor, one_mul, abs_of_nonneg (by positivity)] at habs
  have hlt : (2 : ℚ) ^ eminSub c < 2 ^ ((dblExp d : Int) - 1022) :=
    calc (2 : ℚ) ^ eminSub c ≤ magnitude c.fracBits (bfBody c p) * 2 ^ eminSub c :=
          le_mul_of_one_le_left (by positivity) hsmallest
      _ = significand d * 2 ^ ((dblExp d : Int) - 1075) := hmagnitude.symm
      _ < 2 ^ 53 * 2 ^ ((dblExp d : Int) - 1075) := by gcongr
      _ = 2 ^ ((dblExp d : Int) - 1022) := by
          rw [← zpow_natCast, ← zpow_add₀ two_ne_zero]
          congr 1
          push_cast
          ring
  have hexp := (zpow_lt_zpow_iff_right₀ one_lt_two).1 hlt
  omega

section
variable {c : Config} (hc : c.InRange) {p : Nat} (hp : p < 2 ^ c.nf)
include hc hp

/-- A numeric pattern comes back: its value is a source that it is nearest to, with no error. -/
theorem fencPattern_fdecPattern_of_numeric (h : isNumeric c p = true) : fencPattern c (fdecPattern c p) = p := by
  obtain ⟨hfinite, hsign, hvalue, hzero⟩ := fdecPattern_exact hc h
  by_cases hd : dblExp (fdecPattern c p) = 0
  · have hbody := (bfClass_fields c p).1 (hzero.1 hd)
    rw [fencPattern, if_neg (by omega), if_neg hfinite, if_pos hd, hsign, ← hbody, signedBody_of_fields hc hp]
  · have hbody : bfBody c p ≠ 0 := fun hb => hd (hzero.2 (if_pos hb))
    have herror := (fencPattern_nearest hc hd (eminSub_le_of_dblValue_eq hc hd hbody hvalue) hfinite hp h).1
    rw [hvalue, sub_self, abs_zero] at herror
    exact eq_of_bfValue_eq hc (fencPattern_lt hc _) hp ((fencPattern_fields_of_finite hc hfinite).2.trans hsign)
      (sub_eq_zero.1 (abs_eq_zero.1 (herror.antisymm (abs_nonneg _))))

/-- Every pattern comes back (R214 a). -/
theorem fencPattern_fdecPattern : fencPattern c (fdecPattern c p) = p := by
  obtain ⟨-, hinfinity, hquiet, hsignalling⟩ := bfClass_fields c p
  cases hclass : bfClass c p with
  | zero | subnormal | normal => exact fencPattern_fdecPattern_of_numeric hc hp (by rw [isNumeric, hclass]; rfl)
  | infinity =>
    obtain ⟨hsign, hexp, hfrac⟩ := dblPattern_fields (bfSign c p) (ef := 0x7FF) (fr := 0) (by decide) (by decide)
    rw [fdecPattern, hclass, fencPattern_of_infinity c hexp hfrac, hsign, ← hinfinity hclass,
      signedBody_of_fields hc hp]
  | quietNaN =>
    obtain ⟨hbody, hsign⟩ := hquiet hclass
    have hpat : fdecPattern c p = 0x7FF8000000000000#64 := by rw [fdecPattern, hclass]
    rw [hpat, fencPattern_of_nan c (by decide) (by decide), ← hbody,
      show (!(dblFrac 0x7FF8000000000000#64).testBit 51) = bfSign c p from hsign.symm, signedBody_of_fields hc hp]
  | signallingNaN =>
    obtain ⟨hbody, hsign⟩ := hsignalling hclass
    have hpat : fdecPattern c p = 0x7FF4000000000000#64 := by rw [fdecPattern, hclass]
    rw [hpat, fencPattern_of_nan c (by decide) (by decide), ← hbody,
      show (!(dblFrac 0x7FF4000000000000#64).testBit 51) = bfSign c p from hsign.symm, signedBody_of_fields hc hp]

end

/-- Settles O55. -/
theorem encodeOfDecodedPatternIsThePattern : Obligations.EncodeOfDecodedPatternIsThePattern := by
  intro a b s hc
  obtain ⟨u, hu, -, -, hpat⟩ :=
    exec_fenc b (s := { s.complete (fdecPattern s.cfg (s.freg a).toNat) with din := fdecPattern s.cfg (s.freg a).toNat }) hc
  exact ⟨_, _, u, rfl, rfl, hu, hpat.trans (fencPattern_fdecPattern hc (s.freg a).isLt)⟩

end Sys2Proof.Machine

/-! ## The system commands (R240, R241) -/

namespace Sys2Proof.Machine

/-- The registers of R31 are numbered 0 to 7. -/
theorem State.csr_eq_none_iff (s : State) (k : Nat) : s.csr k = none ↔ 8 ≤ k := by
  match k with
  | 0 | 1 | 2 | 3 | 4 | 5 | 6 | 7 => exact iff_of_false (Option.some_ne_none _) (by decide)
  | k + 8 => exact iff_of_true rfl (Nat.le_add_left 8 k)

theorem State.exists_csr_eq_some (s : State) {k : Nat} (hk : k < 8) : ∃ d, s.csr k = some d :=
  Option.ne_none_iff_exists'.1 (mt (s.csr_eq_none_iff k).1 hk.not_ge)

/-- `DSIGN` reads as its bit, zero-extended (R31). -/
theorem State.csr_dsign (s : State) : s.csr 7 = some (if s.dsign then 1#64 else 0#64) := by
  rw [State.csr]
  cases s.dsign <;> rfl

theorem exec_csrr_of_some {s : State} {d : Native} (h : s.csr s.udin = some d) :
    exec .csrr s = .next (s.complete d) := by
  change execCsrr s = _
  rw [execCsrr, h]

theorem exec_csrr_of_none {s : State} (h : s.csr s.udin = none) :
    exec .csrr s = .next (s.raise .illegalCommand) := by
  change execCsrr s = _
  rw [execCsrr, h]

/-- Settles O59: a number below 8 names a register, whose value is the answer, and no other number names one. -/
theorem csrReadGivesTheRegisterOrFaults : Obligations.CsrReadGivesTheRegisterOrFaults := by
  intro s
  refine ⟨decodeOfEncodeIsTheCommand .csrr rfl, fun hk => ?_, fun hk =>
    ⟨_, exec_csrr_of_none ((s.csr_eq_none_iff _).2 hk), s.raise_raises _⟩⟩
  obtain ⟨d, hd⟩ := s.exists_csr_eq_some hk
  have answer {n v : Native} (hv : s.csr n.toNat = some v) (hn : s.din = n) : d = v := by
    subst hn
    exact Option.some.inj (hd.symm.trans hv)
  exact ⟨_, d, exec_csrr_of_some hd, rfl, s.complete_onlyResponse d, answer rfl, answer rfl, answer rfl, answer rfl,
    answer rfl, answer rfl, answer rfl, answer s.csr_dsign⟩

/-- Settles O60: `CLRF` has one effect, and the frame of every effect is known. -/
theorem clearFaultsClearsOnlyTheFaultStatus : Obligations.ClearFaultsClearsOnlyTheFaultStatus := fun s =>
  have effect : Effect s .clrf (s.clearFaults.complete 0#64) := .clearFaults
  ⟨decodeOfEncodeIsTheCommand .clrf rfl, _, rfl, rfl, rfl, effect.keepsPorts, effect.keepsX, effect.keepsF,
    effect.keepsText rfl, effect.keepsDecimal rfl⟩

end Sys2Proof.Machine

/-! ## Faults (spec/60_exceptions.md)

### What a fault leaves -/

namespace Sys2Proof.Machine

/-- A command completes with fault code 0, or takes a fault of its row of R250. -/
theorem Effect.rsp_cases {i : Instr} {s t : State} (e : Effect s i t) :
    (∃ dout, t.rsp = completedWith dout) ∨ ∃ c, mayRaise i c = true ∧ t = s.raise c := by
  cases e with
  | fault hc => exact .inr ⟨_, hc, rfl⟩
  | respond _ | writeX _ _ _ | writeTwoX _ _ _ _ | parseFails _ | writeF _ _ | emptyText | appendChar _ | storeText _
  | storeDecimal _ | storeDecimalAndText _ _ | clearFaults => exact .inl ⟨_, rfl⟩

/-- Settles O5. -/
theorem undecodableWordRaisesIllegalCommand : Obligations.UndecodableWordRaisesIllegalCommand :=
  fun _ _ _ _ _ hc hp hd => step_raises_of_decode_error hc hp hd

/-- Settles O13, by the effects of a command: all but the fault answer code 0. -/
theorem faultingCommandChangesOnlyTheFaultStatus : Obligations.FaultingCommandChangesOnlyTheFaultStatus := by
  intro i s t r h hr hcode
  rcases (exec_effect h).rsp_cases with ⟨dout, hdone⟩ | ⟨c, hc, rfl⟩
  · obtain rfl : r = { fault := 0#4, dout := dout } := Option.some.inj (hr.symm.trans hdone)
    exact absurd rfl hcode
  · obtain rfl : r = { fault := c.code, dout := 0#64 } := Option.some.inj hr.symm
    exact ⟨c, hc, rfl, s.raise_raises c⟩

/-! ### The fault status gates nothing (R260)

A result is compared with its `FSR` cleared. The checks that a command begins with read no `FSR`, so clearing passes through
them to the states they answer, and there it makes any two values of `FSR` one. -/

/-- A result with the `FSR` of its next state cleared. -/
def clearFsr : Result → Result
  | .next t => .next t.clearFaults
  | .fault r => .fault r
  | .refused r => .refused r

theorem clearFsr_eq_next {r : Result} {u : State} : clearFsr r = .next u ↔ ∃ t, r = .next t ∧ t.clearFaults = u := by
  cases r <;> simp [clearFsr]

theorem clearFsr_withIndex (s : State) (bound : Nat) (k : Nat → Result) :
    clearFsr (withIndex s bound k) =
      if bound ≤ s.udin then clearFsr (.next (s.raise .indexOutOfBounds)) else clearFsr (k s.udin) :=
  apply_ite clearFsr _ _ _

theorem clearFsr_withQuotient (s : State) (a b : XReg) (k : BitVec s.cfg.n × BitVec s.cfg.n → Result) :
    clearFsr (withQuotient s a b k) =
      if s.xreg b = 0#s.cfg.n then clearFsr (.next (s.raise .divideByZero))
      else clearFsr (k (divideWord (s.xreg a) (s.xreg b))) :=
  apply_ite clearFsr _ _ _

/-- Every cell operation is such a conditional: it has a value where the address exists (R50). -/
theorem clearFsr_orStop_ite {α : Type} (p : Prop) [Decidable p] (v : α) (r : Fault) (k : α → Result) :
    clearFsr (orStop (if p then some v else none) r k) = if p then clearFsr (k v) else .fault r := by
  split <;> rfl

/-- Of the control and status registers only number 4 reads `FSR` (R31). -/
theorem State.csr_with_fsr (s : State) (v : BitVec 64) {k : Nat} (hk : k ≠ 4) : { s with fsr := v }.csr k = s.csr k := by
  match k with
  | 4 => exact absurd rfl hk
  | 0 | 1 | 2 | 3 | 5 | 6 | 7 | _ + 8 => rfl

theorem clearFsr_exec_csrr (s : State) (v : BitVec 64) (h : s.din ≠ 4#64) :
    clearFsr (exec .csrr { s with fsr := v }) = clearFsr (exec .csrr s) := by
  have hnum : s.udin ≠ 4 := fun e => h (BitVec.eq_of_toNat_eq e)
  have hcsr := s.csr_with_fsr v hnum
  cases hd : s.csr s.udin with
  | some d => rw [exec_csrr_of_some hd, exec_csrr_of_some (hcsr.trans hd)]; rfl
  | none => rw [exec_csrr_of_none hd, exec_csrr_of_none (hcsr.trans hd)]; rfl

theorem clearFsr_exec_parse (a : XReg) (s : State) (v : BitVec 64) :
    clearFsr (exec (.parse a) { s with fsr := v }) = clearFsr (exec (.parse a) s) := by
  simp only [exec, execParse, State.text, clearFsr_orStop_ite]
  cases h : parseText s.cfg.n (memReadList s.cb 0 s.clen) <;> rfl

/-- With any `FSR` a command answers the same but for `FSR`. A command with no check of its own reads none, and its two answers
are one term once cleared. -/
theorem clearFsr_exec (i : Instr) (s : State) (v : BitVec 64) (h : i = .csrr → s.din ≠ 4#64) :
    clearFsr (exec i { s with fsr := v }) = clearFsr (exec i s) := by
  cases i with
  | csrr => exact clearFsr_exec_csrr s v (h rfl)
  | parse a => exact clearFsr_exec_parse a s v
  | div _ _ | rem _ _ | divrem _ _ _ =>
    simp only [exec, execDiv, execRem, execDivrem, clearFsr_withQuotient]
    rfl
  | setb _ | rstb _ | tstb _ | blkr _ =>
    simp only [exec, execSetb, execRstb, execTstb, execBlkr, clearFsr_withIndex]
    rfl
  | b2d _ | tostr _ | tobin _ =>
    simp only [exec, execB2d, execTostr, execTobin, State.storeDecimal, State.storeDigits, State.storeText,
      clearFsr_orStop_ite]
    rfl
  | cbput | cbget | dmget =>
    simp only [exec, execCbput, execCbget, execDmget, apply_ite clearFsr, State.appendChar, State.charAt, State.digitAt,
      clearFsr_orStop_ite]
    rfl
  | _ => rfl

/-- Settles O14: the answers are equal with `FSR` cleared, so where one is a next state the other is. -/
theorem faultStatusNeverGatesExecution : Obligations.FaultStatusNeverGatesExecution := by
  intro i s t v hcsrr h
  exact clearFsr_eq_next.1 <| (clearFsr_exec i s v hcsrr).trans (congrArg clearFsr h)

end Sys2Proof.Machine

/-! ## Reset and hazards (spec/70_reset_and_hazards.md)

### Steps without a command -/

namespace Sys2Proof.Machine

/-- A host reset gives the reset state with the moves still to come (R280). -/
theorem step_reset {s : State} {rest : List HostMove} (hc : s.cfg.InRange) (hp : s.pending = .reset :: rest) :
    step s = .next (s.assertReset rest) := by
  rw [step, if_pos hc, hp]

/-- With nothing presented the unit waits (R284). -/
theorem step_idle {s : State} (hc : s.cfg.InRange) (hp : s.pending = []) : step s = .next s := by
  rw [step, if_pos hc, hp]
  rfl

/-- A configuration outside the ranges of R7 has no step. -/
theorem step_of_not_inRange {s : State} (hc : ¬s.cfg.InRange) : step s = .refused .configurationOutOfRange := by
  rw [step, if_neg hc]
  rfl

/-- Settles O6: the three equations of a step that runs no command. -/
theorem stepWithoutACommand : Obligations.StepWithoutACommand :=
  fun _ => ⟨fun _ => step_reset, step_idle, step_of_not_inRange⟩

/-! ### Every command is answered (R284)

A check that a command begins with answers by its fault or goes on. The model's own stops are accesses to cells outside `CB` and
`DM`; the commands that reach the two memories answer under premises on their sizes, lengths and form, which are clauses of the
invariant. -/

theorem exists_withIndex_eq_next {s : State} {bound : Nat} {k : Nat → Result}
    (hk : s.din.toNat < bound → ∃ t, k s.din.toNat = .next t) : ∃ t, withIndex s bound k = .next t := by
  obtain ⟨hfault, hgo⟩ := withIndex_eq s bound k
  rcases Nat.lt_or_ge s.din.toNat bound with hlt | hge
  · exact (hk hlt).imp fun _ ht => (hgo hlt).trans ht
  · exact ⟨_, hfault hge⟩

theorem exists_withQuotient_eq_next {s : State} {a b : XReg} {k : BitVec s.cfg.n × BitVec s.cfg.n → Result}
    (hk : ∀ qr, ∃ t, k qr = .next t) : ∃ t, withQuotient s a b k = .next t := by
  obtain ⟨hfault, hgo⟩ := withQuotient_eq s a b k
  by_cases hz : s.xreg b = 0#s.cfg.n
  · exact ⟨_, hfault hz⟩
  · exact (hk _).imp fun _ ht => (hgo hz).trans ht

/-- `CSRR` answers for every number (R240). -/
theorem exists_exec_csrr (s : State) : ∃ t, exec .csrr s = .next t := by
  cases hd : s.csr s.udin with
  | some d => exact ⟨_, exec_csrr_of_some hd⟩
  | none => exact ⟨_, exec_csrr_of_none hd⟩

/-- `PARSE` answers for every text that lies in `CB` (R180, R187). -/
theorem exists_exec_parse (a : XReg) {s : State} (h : s.clen ≤ s.cfg.cbSize) : ∃ t, exec (.parse a) s = .next t := by
  have htext := (s.text_eq_some _).2 ⟨h, rfl⟩
  cases hv : parseText s.cfg.n (memReadList (w := 8) s.cb 0 s.clen) with
  | some v => exact ⟨_, exec_parse_of_some a htext hv⟩
  | none => exact ⟨_, exec_parse_of_none a htext hv⟩

/-- `CBPUT` appends where there is room and faults where there is none (R191). -/
theorem State.Inv.exists_exec_cbput {s : State} (h : s.Inv) : ∃ t, exec .cbput s = .next t := by
  obtain ⟨-, -, -, hroom, hfull⟩ := bufferResetAndAppend s
  rcases h.clenBound.lt_or_eq with hlt | heq
  · exact (hroom hlt h.cbWf.1).imp fun _ ht => ht.1
  · exact (hfull heq).imp fun _ ht => ht.1

/-- `CBGET` and `DMGET` answer a cell below the length and fault from there on (R193, R194). -/
theorem State.Inv.exists_exec_cbget_dmget {s : State} (h : s.Inv) :
    (∃ t, exec .cbget s = .next t) ∧ ∃ t, exec .dmget s = .next t := by
  obtain ⟨-, -, hchar, hcharFault, hdigit, hdigitFault⟩ := bufferReadsGiveTheCellOrFault s h.clenBound h.dlenBound.2
  constructor
  · rcases Nat.lt_or_ge s.din.toNat s.clen with hlt | hge
    · obtain ⟨t, -, hexec, -⟩ := hchar hlt; exact ⟨t, hexec⟩
    · exact (hcharFault hge).imp fun _ ht => ht.1
  · rcases Nat.lt_or_ge s.din.toNat s.dlen with hlt | hge
    · obtain ⟨t, -, hexec, -⟩ := hdigit hlt; exact ⟨t, hexec⟩
    · exact (hdigitFault hge).imp fun _ ht => ht.1

/-- Every command has a next state from a state with the invariant. -/
theorem State.Inv.exists_exec_eq_next {s : State} (h : s.Inv) (i : Instr) : ∃ t, exec i s = .next t := by
  obtain ⟨hn, -, -, -, -, -, hcb⟩ := h.inRange
  cases i with
  | div _ _ | rem _ _ | divrem _ _ _ =>
    simp only [exec_div, exec_rem, exec_divrem]
    exact exists_withQuotient_eq_next fun _ => ⟨_, rfl⟩
  | setb _ | rstb _ | tstb _ | blkr _ =>
    simp only [exec_setb, exec_rstb, exec_tstb, exec_blkr]
    exact exists_withIndex_eq_next fun _ => ⟨_, rfl⟩
  | b2d a => exact ((binaryToDecimalIsExact a s).2 hn h.dmWf.1).imp fun _ ht => ht.1
  | tostr a => exact ((toStringWritesTheShortestNumeral a s).2 h.inRange h.dmWf.1).imp fun _ ht => ht.1
  | tobin a => obtain ⟨t, -, hexec, -⟩ := (toBinaryWritesEveryBit a s).2 (by omega); exact ⟨t, hexec⟩
  | parse a => exact exists_exec_parse a h.clenBound
  | cbput => exact h.exists_exec_cbput
  | cbget => exact h.exists_exec_cbget_dmget.1
  | dmget => exact h.exists_exec_cbget_dmget.2
  | csrr => exact exists_exec_csrr s
  | _ => exact ⟨_, rfl⟩

/-- A command that completes or faults leaves a response (R11). -/
theorem Effect.exists_rsp {i : Instr} {s t : State} (e : Effect s i t) : ∃ r, t.rsp = some r := by
  rcases e.rsp_cases with ⟨dout, hdone⟩ | ⟨c, -, rfl⟩
  · exact ⟨_, hdone⟩
  · exact ⟨_, s.raise_rsp c⟩

/-- Settles O12: a word that is no command raises a fault, and a command has a next state, which is one of its effects. -/
theorem everyPresentedCommandIsAnswered : Obligations.EveryPresentedCommandIsAnswered := by
  intro s cw din rest h hp
  cases hd : decode cw with
  | error e =>
    obtain ⟨t, hstep, hraise⟩ := step_raises_of_decode_error h.inRange hp hd
    exact ⟨t, _, hstep, hraise.response, hraise.ports.pending⟩
  | ok i =>
    obtain ⟨t, hexec⟩ := (h.accept rest din).exists_exec_eq_next i
    have e := exec_effect hexec
    obtain ⟨r, hr⟩ := e.exists_rsp
    exact ⟨t, r, (step_present h.inRange hp).trans ((runCommand_of_decode_ok hd _).trans hexec), hr, e.keepsPorts.pending⟩

/-! ### A recorded fault code stays (R33, R280) -/

/-- Of the commands only `CLRF` changes a recorded code, to 0 (R33, R241). -/
theorem Effect.fcode_of_recorded {i : Instr} {s t : State} (e : Effect s i t) (h : fcode s.fsr ≠ 0#4) :
    fcode t.fsr = fcode s.fsr ∨ (i = .clrf ∧ fcode t.fsr = 0#4) := by
  rcases e.fsr_cases with hkept | ⟨hi, hzero⟩ | ⟨-, -, hpf⟩ | ⟨c, -, hraise⟩
  · exact .inl (congrArg fcode hkept)
  · exact .inr ⟨hi, by rw [hzero]; rfl⟩
  · exact .inl (by rw [hpf, fcode_withPf])
  · exact .inl (hraise.sticks h)

/-- No word but 0x71 is `CLRF`. -/
theorem eq_of_decode_clrf {cw : CmdWord} (h : decode cw = .ok .clrf) : cw = 0x71#32 :=
  (encodeOfDecodeIsTheWord cw .clrf h).1.symm.trans rfl

/-- Settles O16, by the effects of a step: an idle one keeps `FSR`, and a fault keeps the code that is recorded. -/
theorem faultCodeStaysUntilClearedOrReset : Obligations.FaultCodeStaysUntilClearedOrReset := by
  intro s t h hrecorded hchanged
  cases (step_effect h).2 with
  | idle _ => exact absurd rfl hchanged
  | reset hp => exact ⟨rfl, .inl ⟨_, hp⟩⟩
  | @command c rest i _ hp hd ht =>
    rcases (exec_effect ht).fcode_of_recorded hrecorded with hkept | ⟨rfl, hzero⟩
    · exact absurd hkept hchanged
    · obtain ⟨cw, din⟩ := c
      obtain rfl := eq_of_decode_clrf hd
      exact ⟨hzero, .inr ⟨din, rest, hp⟩⟩
  | @illegal c rest _ _ _ =>
    exact absurd (((s.accept rest c.din).raise_raises .illegalCommand).sticks hrecorded) hchanged

end Sys2Proof.Machine
